-- ==== Sys2Proof/Word.lean ====
section
/-! DEFINITION. The word, byte and address types of the CORE (spec 00_scope.md R6, R11; 20_memory.md R36). -/

namespace Sys2Proof

/-- A 64-bit word: an Internal State word, a register, a matrix word (R6 `W`, R15, R16). -/
abbrev Word := BitVec 64

/-- One byte of a byte buffer (R11, R13). -/
abbrev Byte := BitVec 8

/-- A byte address on the 32-bit host port (R36). -/
abbrev Addr := BitVec 32

end Sys2Proof
end

