-- ==== Sys2Proof/Syntax.lean ====
section
/-! DEFINITION. The command set CORE-CMD 1: one constructor per row of the opcode map
(spec 30_encoding.md R58). -/

namespace Sys2Proof

/-- A command of R58 with its operands in the order of R57's format fields. Operands are the unsigned numbers the
fields hold (R60); `q` cannot leave its range (3 bits), the others are bounded by `Instr.wf`. -/
inductive Instr where
  /-- `NOP` (R122). -/
  | nop
  /-- `CLR` (R123). -/
  | clr
  /-- `SRST` (R124). -/
  | srst
  /-- `QR q` (R76). -/
  | qr (q : Fin 8)
  /-- `PERM.R` (R78). -/
  | permR
  /-- `PERM.F` (R79). -/
  | permF
  /-- `SINIT` (R86). -/
  | sinit
  /-- `ABSF row, col` (R87). -/
  | absf (row col : Nat)
  /-- `ABSS n` (R88). -/
  | abss (n : Nat)
  /-- `SQZ` (R89). -/
  | sqz
  /-- `PAD` (R103). -/
  | pad
  /-- `SQROW0 rout` (R104). -/
  | sqrow0 (rout : Nat)
  /-- `DPXROW1 rin, rout` (R105). -/
  | dpxrow1 (rin rout : Nat)
  /-- `DPXSETUP prev, rowa, rnew` (R106). -/
  | dpxsetup (prev rowa rnew : Nat)
  /-- `DPXWANDER prev, rowa, row` (R107). -/
  | dpxwander (prev rowa row : Nat)
  /-- `SETUP` (R108). -/
  | setup
  /-- `WANDER` (R109). -/
  | wander
  /-- `DERIVE` (R110). -/
  | derive
  /-- `HP.RESET k` (R113). -/
  | hpReset (k : Nat)
  /-- `HP.UPDATE k, src` (R114). -/
  | hpUpdate (k src : Nat)
  /-- `HP.DIGEST k, dst` (R115). -/
  | hpDigest (k dst : Nat)
  /-- `HSTAGE k, src, dst` (R116). -/
  | hstage (k src dst : Nat)
  /-- `POWHASH` (R119). -/
  | powhash
  deriving DecidableEq, Repr

end Sys2Proof
end

