-- ==== Sys2Proof/WellFormed.lean ====
section
/-! DEFINITION. Which commands have an encoding: each operand fits its field (spec 30_encoding.md R57, R60). An
operand that fits its field but that the command does not accept (`k = 6`, a row not below `NROWS`) is well formed:
the command refuses it with `ERR_OPERAND` (R59). -/

namespace Sys2Proof

/-- The value fits an 8-bit operand field (formats A1, A2, A3 of R57). -/
def fits8 (n : Nat) : Bool := decide (n < 256)

/-- The value fits the 16-bit operand field of format I (R57). -/
def fits16 (n : Nat) : Bool := decide (n < 65536)

/-- Every operand fits its field. -/
def Instr.wf : Instr → Bool
  | .nop | .clr | .srst | .permR | .permF | .sinit | .sqz | .pad => true
  | .setup | .wander | .derive | .powhash => true
  | .qr _ => true
  | .absf row col => fits8 row && fits8 col
  | .abss n => fits16 n
  | .sqrow0 rout => fits8 rout
  | .dpxrow1 rin rout => fits8 rin && fits8 rout
  | .dpxsetup prev rowa rnew => fits8 prev && fits8 rowa && fits8 rnew
  | .dpxwander prev rowa row => fits8 prev && fits8 rowa && fits8 row
  | .hpReset k => fits8 k
  | .hpUpdate k src => fits8 k && fits8 src
  | .hpDigest k dst => fits8 k && fits8 dst
  | .hstage k src dst => fits8 k && fits8 src && fits8 dst

end Sys2Proof
end

