-- ==== Sys2Proof/Decode.lean ====
section
/-! DEFINITION. The command word: decoder and encoder (spec 30_encoding.md R56 to R60, R67). -/

namespace Sys2Proof

/-- Why a 64-bit `CMD` write is no command, the three cases of R59. Each raises `ERR_ILLEGAL` in the machine. -/
inductive DecodeError where
  /-- (a) bits 63:32 of the write are not all zero. -/
  | highBitsSet
  /-- (b) the opcode is not one of the 23 of R58. -/
  | unassignedOpcode
  /-- (c) a reserved field of the format is not zero. -/
  | reservedField
  deriving DecidableEq, Repr

/-- `bits[hi:lo]` of a command word as an unsigned number (R11). -/
def slice (w : BitVec 32) (hi lo : Nat) : Nat := w.toNat / 2 ^ lo % 2 ^ (hi + 1 - lo)

/-- Format N: no operand, bits 23:0 reserved (R57). -/
def formatN (a b c : Nat) (i : Instr) : Except DecodeError Instr :=
  if a = 0 ∧ b = 0 ∧ c = 0 then .ok i else .error .reservedField

/-- Format Q: `q` in bits 2:0, bits 23:3 reserved (R57). -/
def formatQ (a b c : Nat) (i : Fin 8 → Instr) : Except DecodeError Instr :=
  if h : a = 0 ∧ b = 0 ∧ c < 8 then .ok (i ⟨c, h.2.2⟩) else .error .reservedField

/-- Format I: one 16-bit operand in bits 15:0, bits 23:16 reserved (R57). -/
def formatI (a b c : Nat) (i : Nat → Instr) : Except DecodeError Instr :=
  if a = 0 then .ok (i (256 * b + c)) else .error .reservedField

/-- Format A1: one operand in bits 7:0, bits 23:8 reserved (R57). -/
def formatA1 (a b c : Nat) (i : Nat → Instr) : Except DecodeError Instr :=
  if a = 0 ∧ b = 0 then .ok (i c) else .error .reservedField

/-- Format A2: first operand in bits 15:8, second in bits 7:0, bits 23:16 reserved (R57). -/
def formatA2 (a b c : Nat) (i : Nat → Nat → Instr) : Except DecodeError Instr :=
  if a = 0 then .ok (i b c) else .error .reservedField

/-- Format A3: three operands, the first in bits 23:16 (R57). -/
def formatA3 (a b c : Nat) (i : Nat → Nat → Nat → Instr) : Except DecodeError Instr := .ok (i a b c)

/-- The command with opcode `op` and the three operand bytes `a` (bits 23:16), `b` (bits 15:8), `c` (bits 7:0):
the opcode map of R58. -/
def decodeFields (op a b c : Nat) : Except DecodeError Instr :=
  match op with
  | 0x00 => formatN a b c .nop
  | 0x01 => formatN a b c .clr
  | 0x02 => formatN a b c .srst
  | 0x10 => formatQ a b c .qr
  | 0x11 => formatN a b c .permR
  | 0x12 => formatN a b c .permF
  | 0x20 => formatN a b c .sinit
  | 0x21 => formatA2 a b c .absf
  | 0x22 => formatI a b c .abss
  | 0x23 => formatN a b c .sqz
  | 0x30 => formatN a b c .pad
  | 0x31 => formatA1 a b c .sqrow0
  | 0x32 => formatA2 a b c .dpxrow1
  | 0x33 => formatA3 a b c .dpxsetup
  | 0x34 => formatA3 a b c .dpxwander
  | 0x35 => formatN a b c .setup
  | 0x36 => formatN a b c .wander
  | 0x37 => formatN a b c .derive
  | 0x40 => formatA1 a b c .hpReset
  | 0x41 => formatA2 a b c .hpUpdate
  | 0x42 => formatA2 a b c .hpDigest
  | 0x43 => formatA3 a b c .hstage
  | 0x4F => formatN a b c .powhash
  | _ => .error .unassignedOpcode

/-- The command a 32-bit word stands for: bits 31:24 are the opcode in every format (R56). -/
def decodeWord (w : BitVec 32) : Except DecodeError Instr :=
  decodeFields (slice w 31 24) (slice w 23 16) (slice w 15 8) (slice w 7 0)

/-- The command a 64-bit write to `CMD` offers: bits 63:32 must be zero, bits 31:0 are the word (R22, R56, R59). -/
def decode (v : BitVec 64) : Except DecodeError Instr :=
  if v.toNat / 2 ^ 32 = 0 then decodeWord (v.setWidth 32) else .error .highBitsSet

/-- The command word with the given opcode and operand bytes (R57). -/
def packWord (op a b c : Nat) : BitVec 32 := BitVec.ofNat 32 (op * 2 ^ 24 + a * 2 ^ 16 + b * 2 ^ 8 + c)

/-- The word of a well-formed command (R57, R58). -/
def encode : Instr → BitVec 32
  | .nop => packWord 0x00 0 0 0
  | .clr => packWord 0x01 0 0 0
  | .srst => packWord 0x02 0 0 0
  | .qr q => packWord 0x10 0 0 q.val
  | .permR => packWord 0x11 0 0 0
  | .permF => packWord 0x12 0 0 0
  | .sinit => packWord 0x20 0 0 0
  | .absf row col => packWord 0x21 0 row col
  | .abss n => packWord 0x22 0 (n / 256) (n % 256)
  | .sqz => packWord 0x23 0 0 0
  | .pad => packWord 0x30 0 0 0
  | .sqrow0 rout => packWord 0x31 0 0 rout
  | .dpxrow1 rin rout => packWord 0x32 0 rin rout
  | .dpxsetup prev rowa rnew => packWord 0x33 prev rowa rnew
  | .dpxwander prev rowa row => packWord 0x34 prev rowa row
  | .setup => packWord 0x35 0 0 0
  | .wander => packWord 0x36 0 0 0
  | .derive => packWord 0x37 0 0 0
  | .hpReset k => packWord 0x40 0 0 k
  | .hpUpdate k src => packWord 0x41 0 k src
  | .hpDigest k dst => packWord 0x42 0 k dst
  | .hstage k src dst => packWord 0x43 k src dst
  | .powhash => packWord 0x4F 0 0 0

/-- The 64-bit value a host writes to `CMD` to issue the command (R56). -/
def encodeCmd (i : Instr) : BitVec 64 := (encode i).setWidth 64

/-- A row of the opcode map of R58: the word `w` is this command exactly when `w & mask = pattern`. -/
structure OpcodeRow where
  /-- The row's `match` column. -/
  pattern : BitVec 32
  /-- The row's `mask` column. -/
  mask : BitVec 32
  deriving DecidableEq, Repr

/-- The word matches the row (R58). -/
def OpcodeRow.accepts (r : OpcodeRow) (w : BitVec 32) : Bool := w &&& r.mask == r.pattern

/-- The `match` and `mask` columns of R58, in the order of its table. -/
def opcodeMap : List OpcodeRow :=
  [⟨0x00000000#32, 0xFFFFFFFF#32⟩, ⟨0x01000000#32, 0xFFFFFFFF#32⟩, ⟨0x02000000#32, 0xFFFFFFFF#32⟩,
   ⟨0x10000000#32, 0xFFFFFFF8#32⟩, ⟨0x11000000#32, 0xFFFFFFFF#32⟩, ⟨0x12000000#32, 0xFFFFFFFF#32⟩,
   ⟨0x20000000#32, 0xFFFFFFFF#32⟩, ⟨0x21000000#32, 0xFFFF0000#32⟩, ⟨0x22000000#32, 0xFFFF0000#32⟩,
   ⟨0x23000000#32, 0xFFFFFFFF#32⟩, ⟨0x30000000#32, 0xFFFFFFFF#32⟩, ⟨0x31000000#32, 0xFFFFFF00#32⟩,
   ⟨0x32000000#32, 0xFFFF0000#32⟩, ⟨0x33000000#32, 0xFF000000#32⟩, ⟨0x34000000#32, 0xFF000000#32⟩,
   ⟨0x35000000#32, 0xFFFFFFFF#32⟩, ⟨0x36000000#32, 0xFFFFFFFF#32⟩, ⟨0x37000000#32, 0xFFFFFFFF#32⟩,
   ⟨0x40000000#32, 0xFFFFFF00#32⟩, ⟨0x41000000#32, 0xFFFF0000#32⟩, ⟨0x42000000#32, 0xFFFF0000#32⟩,
   ⟨0x43000000#32, 0xFF000000#32⟩, ⟨0x4F000000#32, 0xFFFFFFFF#32⟩]

/-- The command whose bits are `w`, numbered as the opcode table numbers them, every bit above `nbits` zero. The
decoder sees the one word a host writes to `CMD`. -/
def decodeTableWord (nbits w : Nat) : Option Instr :=
  match decode (BitVec.ofNat 64 (w % 2 ^ nbits)) with
  | .ok i => some i
  | .error _ => none

end Sys2Proof
end

