-- ==== Sys2Proof/Config.lean ====
section
/-! DEFINITION. The implementation parameters of the CORE (spec 00_scope.md R7 to R10, R29) and the free values
of the model. Nothing changes them while the machine runs. They are constants without a body: no proof can see
their values, so a claim about the machine holds for every choice the spec allows. -/

namespace Sys2Proof

/-- The parameters R29 lists. The bounds R9 puts on the capacities hold by construction: a capacity is stored as
a number of units in the range R9 allows (log entry 1). -/
structure Params where
  /-- `IV[0..7]` (R7). -/
  iv : Vector Word 8
  /-- `PWD_MAX / 8` (R9: a multiple of 8, at most 4096). -/
  pwdWords : Fin 513
  /-- `SALT_MAX / 8` (R9: a multiple of 8, at most 4096). -/
  saltWords : Fin 513
  /-- `OUT_MAX / 8` (R9: a multiple of 8, at most 4096). -/
  outWords : Fin 513
  /-- `PAD_MAX / 64 - 2` (R9: a multiple of 64, at least 128, at most 16384). -/
  padExtra : Fin 255
  /-- `M_BLOCKS - 16` (R9: at least 16, at most 2^20). -/
  mExtra : Fin 1048561
  /-- `ROW0_TRAILING_TRANSFORM` (R10, R91). -/
  row0Trailing : Bool
  /-- `SETUP_NEWROW_REVERSED` (R10, R93). -/
  newRowReversed : Bool
  /-- `H1 .. H5`, unit `k` at index `k - 1`: total functions from a byte string to 32 bytes (R8, R111). -/
  hash : Fin 5 → List Byte → Vector Byte 32
  deriving Inhabited

namespace Params

/-- `PWD_MAX`, in bytes (R9). -/
def pwdMax (p : Params) : Nat := 8 * p.pwdWords.val

/-- `SALT_MAX`, in bytes (R9). -/
def saltMax (p : Params) : Nat := 8 * p.saltWords.val

/-- `OUT_MAX`, in bytes (R9). -/
def outMax (p : Params) : Nat := 8 * p.outWords.val

/-- `PAD_MAX`, in bytes (R9). -/
def padMax (p : Params) : Nat := 64 * (p.padExtra.val + 2)

/-- `M_BLOCKS`, in 96-byte blocks (R9). -/
def mBlocks (p : Params) : Nat := p.mExtra.val + 16

end Params

namespace Config

/-- The parameters of this machine. DESIGN CHOICE, safe (log entry 1): R29 leaves them open and so does this
constant. -/
opaque params : Params

/-- Free values: what a host read returns for a location that holds no value (R38, 93 item U2) and for a read
while busy (R44). The argument is the draw's number, `State.freeCount`. Log entry 2. -/
opaque freeWord : Nat → Word

/-- The default `IV` of R7, used by the derived vectors only. -/
def defaultIV : Vector Word 8 :=
  #v[0x6A09E667F3BCC908#64, 0xBB67AE8584CAA73B#64, 0x3C6EF372FE94F82B#64, 0xA54FF53A5F1D36F1#64,
     0x510E527FADE682D1#64, 0x9B05688C2B3E6C1F#64, 0x1F83D9ABFB41BD6B#64, 0x5BE0CD19137E2179#64]

/-- The reference configuration of R9 with the default `IV` and the defaults of R10, for tests: the machine
itself uses `params`. -/
def reference (hash : Fin 5 → List Byte → Vector Byte 32) : Params where
  iv := defaultIV
  pwdWords := 8
  saltWords := 8
  outWords := 16
  padExtra := 2
  mExtra := 48
  row0Trailing := true
  newRowReversed := false
  hash := hash

end Config

end Sys2Proof
end

