-- ==== Sys2Proof/Machine/Init.lean ====
section
/-! DEFINITION. The fixed initial Internal State (spec 41_sponge_engine.md R81), which is also its reset value
(10_state.md R30). -/

namespace Sys2Proof.Machine

/-- `InitState`: the first eight words zero, the last eight the `IV` (R81). -/
def initWords (iv : Vector Word 8) : Vector Word 16 :=
  Vector.ofFn fun i => if h : i.val < 8 then 0 else iv[i.val - 8]

end Sys2Proof.Machine
end

