-- ==== Sys2Proof/Machine/State.lean ====
section
/-! DEFINITION. The state of the machine: every piece of state of spec 10_state.md (R15 to R28), the host port's
pending transactions and last response (20_memory.md R36), and the model's own counter of free values. Plain data
throughout. -/

namespace Sys2Proof.Machine

/-- Why a step stops. -/
inductive Fault where
  /-- A command read a location that holds no value (`⊥`, R27); `addr` is the host byte address of the first such
  byte it met. Raised by the shared read operations of Machine/Ops.lean. Safe: the hardware goes on and computes
  with whatever the storage holds; R27 and 93 item U1 give a model's read of it no meaning and have it fault. -/
  | noValue (addr : Nat)
  deriving DecidableEq, Repr

/-- Why a step has no meaning. -/
inductive Refusal where
  /-- The command has no meaning in this model yet. No arm of `exec` raises it. Safe. -/
  | notModelled (mnemonic : String)
  deriving DecidableEq, Repr

/-- The error codes of R127 that the CORE produces. Code 0 is "none"; codes 2 and 9 to 255 are never produced. -/
inductive ErrCode where
  /-- 1: the `CMD` write is not a command. -/
  | illegal
  /-- 3: a command reads HDR and `HDRLEN` is not 80. -/
  | hdrLen
  /-- 4: a parameter the command uses is not positive. -/
  | param
  /-- 5: `NROWS` is not a power of two, or is 1. -/
  | nRows
  /-- 6: the request does not fit this instance. -/
  | capacity
  /-- 7: an operand is outside what the command accepts. -/
  | operand
  /-- 8: an update or digest on a HashPrimitive that has not been reset. -/
  | hpSeq
  deriving DecidableEq, Repr

/-- `PHASE` of the hidden sequencer position (R19). -/
inductive Phase where
  | idle | pad | absorb | setup0 | setup1 | setupN | wander | final | squeeze | hash
  deriving DecidableEq, Repr

/-- The hidden sequencer position (R19). `COL` and `BLK` have no stated width and are plain numbers here. -/
structure SeqPos where
  /-- `QIDX`: which quarter-round of the current round is next. -/
  qidx : BitVec 3
  /-- `RND`: how many rounds of the current transform are complete. -/
  rnd : BitVec 4
  /-- `TGT`: how many rounds the current transform needs. -/
  tgt : BitVec 4
  /-- `COL`: the column counter of a row operation. -/
  col : Nat
  /-- `BLK`: the block counter of absorption and squeeze. -/
  blk : Nat
  /-- `STAGE`: 0 when no chain runs, else 1..7. -/
  stage : Fin 8
  /-- `PHASE`. -/
  phase : Phase
  deriving DecidableEq, Repr

/-- The hidden sequencer position whenever `STATUS.BUSY = 0`: all zero, `PHASE = IDLE` (R19, R30). -/
def SeqPos.rest : SeqPos :=
  { qidx := 0, rnd := 0, tgt := 0, col := 0, blk := 0, stage := 0, phase := .idle }

/-- The storage the host reaches as bytes: HDR, BUFA, BUFB, PWD, SALT, OUT, PADBUF and M, each at its host byte
address (R23 to R26, R37). An address that is not listed holds no value (`⊥`, R27). -/
abbrev Memory := List Host.Cell

/-- The canonical form of the storage: addresses strictly rising. (No entry can equal what an unlisted address
reads as: an unlisted address has no value.) -/
abbrev Memory.wf (m : Memory) : Prop := m.Pairwise (fun c d => c.1 < d.1)

/-- What the outside world does at the CORE's boundary (R36): a host read, a host write, or the reset input. -/
inductive PortAction where
  /-- `MemRead(addr, bytes)`. -/
  | read (addr : Addr) (bytes : Nat)
  /-- `MemWrite(addr, bytes, v)`. -/
  | write (addr : Addr) (bytes : Nat) (v : Word)
  /-- The reset input is asserted and released (R141). -/
  | reset
  deriving DecidableEq, Repr

/-- One pending action of the outside world. `early` says that it arrives while the command that is running then
has not completed: how many do is the outside world's choice (R63, 93 item U7). While nothing runs it makes no
difference. -/
structure PortEvent where
  /-- The action arrives before a running command completes. -/
  early : Bool
  /-- The action. -/
  act : PortAction
  deriving DecidableEq, Repr

/-- How a host transaction ends (R36). -/
inductive Response where
  /-- OKAY to a write. -/
  | okay
  /-- OKAY to a read, with the value returned. -/
  | value (v : Word)
  /-- ERROR: a bus error. -/
  | error
  deriving DecidableEq, Repr

/-- The state of the machine. -/
structure State where
  /-- `S[0..15]`, the Internal State (R15). -/
  S : Vector Word 16
  /-- `OUTLEN` (R16). -/
  outLen : Word
  /-- `PWDLEN` (R16). -/
  pwdLen : Word
  /-- `SALTLEN` (R16). -/
  saltLen : Word
  /-- `TIMECOST` (R16). -/
  timeCost : Word
  /-- `NROWS` (R16). -/
  nRows : Word
  /-- `NCOLS` (R16). -/
  nCols : Word
  /-- `HDRLEN` (R17). -/
  hdrLen : Word
  /-- `ROW` (R18). -/
  row : Word
  /-- `PREV` (R18). -/
  prev : Word
  /-- `ROWA` (R18). -/
  rowa : Word
  /-- `STEP`, two's complement (R18). -/
  stride : Word
  /-- `WINDOW` (R18). -/
  window : Word
  /-- `GAP`, two's complement (R18). -/
  gap : Word
  /-- `TAU` (R18). -/
  tau : Word
  /-- `NBLK` (R20). -/
  nBlk : Word
  /-- The hidden sequencer position (R19). -/
  seq : SeqPos
  /-- The command that is running; `STATUS.BUSY` is 1 exactly when there is one (R21, R62). -/
  running : Option Instr
  /-- `STATUS.DONE` (R21). -/
  done : Bool
  /-- `STATUS.HAZ` (R21). -/
  haz : Bool
  /-- `STATUS.ERR`, `none` for code 0 (R21, R127). -/
  err : Option ErrCode
  /-- HDR, BUFA, BUFB, PWD, SALT, OUT, PADBUF and M (R23 to R26). -/
  mem : Memory
  /-- `ACC[1..5]`, unit `k` at index `k - 1`; `none` is `⊥` (R28). -/
  acc : Vector (Option (List Byte)) 5
  /-- What the outside world will do, in order (R36, R49). The MODEL's own field. -/
  port : List PortEvent
  /-- How the last host transaction ended (R36). The MODEL's own field. -/
  resp : Option Response
  /-- How many free values have been drawn. The MODEL's own field (log entry 2). -/
  freeCount : Nat
  /-- The mark R44 and 93 item U3 ask for: the host made an access that sets `HAZ` while a command ran, so that the
  run is refused as an execution of this hardware. Never cleared. The MODEL's own field (log entry 6). -/
  offProtocol : Bool
  deriving DecidableEq, Repr

/-- The machine right after reset (R30, R141), with nothing pending on the port. -/
def State.reset : State where
  S := initWords Config.params.iv
  outLen := 0
  pwdLen := 0
  saltLen := 0
  timeCost := 0
  nRows := 0
  nCols := 0
  hdrLen := 0
  row := 0
  prev := 0
  rowa := 0
  stride := 0
  window := 0
  gap := 0
  tau := 0
  nBlk := 0
  seq := SeqPos.rest
  running := none
  done := false
  haz := false
  err := none
  mem := []
  acc := Vector.replicate 5 none
  port := []
  resp := none
  freeCount := 0
  offProtocol := false

end Sys2Proof.Machine
end

