-- ==== Sys2Proof/Machine/Flags.lean ====
section
/-! DEFINITION. The flags: `STATUS` and its fields (spec 10_state.md R21), what acceptance, completion and a broken
port protocol do to them (30_encoding.md R61 to R63), and the `done` output (60_exceptions.md R134). No arithmetic
operation sets a flag (R12, R21). -/

namespace Sys2Proof.Machine

/-- The value of `STATUS.ERR` (R127). -/
def ErrCode.code : ErrCode → BitVec 8
  | .illegal => 1
  | .hdrLen => 3
  | .param => 4
  | .nRows => 5
  | .capacity => 6
  | .operand => 7
  | .hpSeq => 8

/-- `STATUS.BUSY` (R21). -/
def busy (s : State) : Bool := s.running.isSome

/-- `STATUS.ERR` as its 8-bit code, 0 when no error is pending (R127). -/
def errField (e : Option ErrCode) : BitVec 8 :=
  match e with
  | none => 0
  | some c => c.code

/-- The value of register `STATUS`: `BUSY` bit 0, `DONE` bit 1, `HAZ` bit 2, `ERR` bits 15:8, every other bit 0
(R21). -/
def statusWord (s : State) : Word :=
  BitVec.ofNat 64
    ((busy s).toNat + 2 * s.done.toNat + 4 * s.haz.toNat + 256 * (errField s.err).toNat)

/-- The level output `done`, equal at all times to `STATUS.DONE` (R134). -/
def doneOutput (s : State) : Bool := s.done

/-- `STATUS.HAZ <- 1`: the host broke the port protocol (R21, R44, R61). -/
def setHaz (s : State) : State := { s with haz := true }

/-- The run is marked as refused: from here on it is no execution of this hardware of which the spec says anything
(R44, 93 item U3, log entry 6). -/
def markRun (s : State) : State := { s with offProtocol := true }

/-- A command is accepted and starts: `DONE <- 0; BUSY <- 1` (R61, R62). -/
def start (i : Instr) (s : State) : State := { s with done := false, running := some i }

/-- A command ends: `BUSY <- 0; DONE <- 1`, and the hidden sequencer fields return to zero (R63). -/
def complete (s : State) : State := { s with done := true, running := none, seq := SeqPos.rest }

end Sys2Proof.Machine
end

