-- ==== Sys2Proof/Machine/Operands.lean ====
section
/-! DEFINITION. Word arithmetic, byte order, operand selectors and addresses: spec 00_scope.md R11, R12;
20_memory.md R37, R40, R47; 30_encoding.md R60. -/

namespace Sys2Proof.Machine

/-- `rotr(x, n)`: rotate right (R12). -/
def rotr (x : Word) (n : Nat) : Word := (x >>> n) ||| (x <<< (64 - n))

/-- Byte `i` of a word: `v[8i+7:8i]` (R11, R39). -/
def byteOf (w : Word) (i : Nat) : Byte := BitVec.ofNat 8 (w.toNat / 256 ^ i)

/-- `LE64`: the eight bytes of a word, least significant first (R11, R40). -/
def le64 (w : Word) : List Byte :=
  [byteOf w 0, byteOf w 1, byteOf w 2, byteOf w 3, byteOf w 4, byteOf w 5, byteOf w 6, byteOf w 7]

/-- The little-endian number a byte string stands for: the sum of `b[i] * 2^(8i)` (R11). -/
def leNat : List Byte → Nat
  | [] => 0
  | b :: bs => b.toNat + 256 * leNat bs

/-- `WordLE`: the word of an 8-byte string (R11, R40). -/
def wordLE (bs : List Byte) : Word := BitVec.ofNat 64 (leNat bs)

/-- The bytes of a list of words, each `LE64`, in order (R40). -/
def le64s (ws : List Word) : List Byte := ws.flatMap le64

/-! ### Addresses on the host port (R37) -/

/-- Base of `S`. -/
def sBase : Nat := 0x0100
/-- Base of HDR, 80 bytes. -/
def hdrBase : Nat := 0x0180
/-- Base of BUFA, 32 bytes. -/
def bufABase : Nat := 0x0200
/-- Base of BUFB, 32 bytes. -/
def bufBBase : Nat := 0x0220
/-- Base of PWD. -/
def pwdBase : Nat := 0x1000
/-- Base of SALT. -/
def saltBase : Nat := 0x2000
/-- Base of OUT. -/
def outBase : Nat := 0x3000
/-- Base of PADBUF. -/
def padBase : Nat := 0x4000
/-- Base of the Memory Matrix M. -/
def mBase : Nat := 0x10000

/-- The host byte address of the block at `(row, col)` of a matrix with `C` columns:
`0x0001_0000 + 96 * (row * C + col)` (R47). -/
def blockAddr (C row col : Nat) : Nat := mBase + 96 * (row * C + col)

/-! ### Operand selectors (R60) -/

/-- The byte buffers a selector can name (R60). -/
inductive Buf where
  | hdr | bufA | bufB
  deriving DecidableEq, Repr

/-- Where the buffer starts (R23, R37). -/
def Buf.base : Buf → Nat
  | .hdr => hdrBase
  | .bufA => bufABase
  | .bufB => bufBBase

/-- How many bytes the buffer has (R23, R60). -/
def Buf.size : Buf → Nat
  | .hdr => 80
  | .bufA => 32
  | .bufB => 32

/-- The operand `src`: 0 HDR, 1 BUFA, 2 BUFB (R60). -/
def srcBuf? (n : Nat) : Option Buf :=
  match n with
  | 0 => some .hdr
  | 1 => some .bufA
  | 2 => some .bufB
  | _ => none

/-- The operand `dst`: 1 BUFA, 2 BUFB; HDR is never a destination (R60). -/
def dstBuf? (n : Nat) : Option Buf :=
  match n with
  | 1 => some .bufA
  | 2 => some .bufB
  | _ => none

/-- The operand `k`: 1..5 name the HashPrimitives (R60); unit `k` has index `k - 1`. -/
def unit? (k : Nat) : Option (Fin 5) :=
  if h : 1 ≤ k ∧ k ≤ 5 then some ⟨k - 1, by omega⟩ else none

/-! ### Loop variables as registers (R12, R18) -/

/-- A register's value for an unsigned loop variable. -/
def natReg (n : Nat) : Word := BitVec.ofNat 64 n

/-- A register's value for a signed loop variable: a negative value is stored as `value + 2^64` (R18). -/
def intReg (z : Int) : Word := BitVec.ofInt 64 z

end Sys2Proof.Machine
end

