-- ==== Sys2Proof/Machine/Ops.lean ====
section
/-! DEFINITION. The named operations the commands share: the storage (spec 10_state.md R26, R27; 20_memory.md R38 to
R40, R47), the argument checks (42_memory_hard_core.md R101, R102; 60_exceptions.md R129), raising an error and
returning from it (60_exceptions.md R131, R132), acceptance and completion of a command (30_encoding.md R61 to R63),
and reset (10_state.md R30). -/

namespace Sys2Proof.Machine

/-! ### Storage -/

/-- The value of the byte at a host byte address, `none` where it holds no value (R27). -/
def memGet? (m : Memory) (a : Nat) : Option Byte := m.lookup a

/-- The cells of a byte string that starts at `base`. -/
def cellsFrom (base : Nat) : List Byte → Memory
  | [] => []
  | b :: bs => (base, b) :: cellsFrom (base + 1) bs

/-- `BUF[base .. base + len) <- bytes`: the bytes become defined, the others keep what they held (R39). -/
def memWrite (m : Memory) (base : Nat) (bs : List Byte) : Memory :=
  m.filter (fun c => decide (c.1 < base)) ++
    (cellsFrom base bs ++ m.filter (fun c => decide (base + bs.length ≤ c.1)))

/-- `n` bytes from `a`, in order; a byte that holds no value faults the command (R27, 93 item U1). -/
def readBytes (m : Memory) (a : Nat) : Nat → Except Fault (List Byte)
  | 0 => .ok []
  | n + 1 =>
    match memGet? m a with
    | none => .error (.noValue a)
    | some b =>
      match readBytes m (a + 1) n with
      | .error f => .error f
      | .ok bs => .ok (b :: bs)

/-- The little-endian word at byte address `a` (R40). -/
def readWord (m : Memory) (a : Nat) : Except Fault Word :=
  match readBytes m a 8 with
  | .error f => .error f
  | .ok bs => .ok (wordLE bs)

/-- `n` consecutive words from byte address `a`, in order. -/
def readWords (m : Memory) (a : Nat) : (n : Nat) → Except Fault (Vector Word n)
  | 0 => .ok #v[]
  | n + 1 =>
    match readWords m a n with
    | .error f => .error f
    | .ok ws =>
      match readWord m (a + 8 * n) with
      | .error f => .error f
      | .ok w => .ok (ws.push w)

/-- Consecutive words written from byte address `a`, each little-endian. -/
def writeWords (m : Memory) (a : Nat) (ws : List Word) : Memory := memWrite m a (le64s ws)

/-- The 12 words `M[row][col]` of a matrix with `C` columns (R13, R47). -/
def readBlock (m : Memory) (C row col : Nat) : Except Fault (Vector Word 12) :=
  readWords m (blockAddr C row col) 12

/-- `M[row][col] <- block` in a matrix with `C` columns (R13, R47). -/
def writeBlock (m : Memory) (C row col : Nat) (blk : Vector Word 12) : Memory :=
  writeWords m (blockAddr C row col) blk.toList

/-- The whole content of a byte buffer. -/
def readBuf (m : Memory) (b : Buf) : Except Fault (List Byte) := readBytes m b.base b.size

/-- A byte string written to the start of a byte buffer. -/
def writeBuf (m : Memory) (b : Buf) (bs : List Byte) : Memory := memWrite m b.base bs

/-! ### Argument checks -/

/-- The first check of a list that fails names the error (R129); each entry says whether the check holds. -/
def firstFailing : List (Bool × ErrCode) → Option ErrCode
  | [] => none
  | (ok, e) :: rest => if ok then firstFailing rest else some e

/-- `signed(x) > 0` (R12, R101). -/
def positive (x : Word) : Bool := decide (0 < x.toInt)

/-- The number is a power of two. -/
def isPowerOfTwo (n : Nat) : Bool := decide (2 ^ n.log2 = n)

/-- `CheckParams(t, R, C)`, its checks in order (R101). -/
def checkParams (p : Params) (t R C : Word) : List (Bool × ErrCode) :=
  [(positive t && positive R && positive C, .param),
   (isPowerOfTwo R.toNat && decide (R.toNat ≠ 1), .nRows),
   (decide (R.toNat * C.toNat ≤ p.mBlocks), .capacity)]

/-- `CheckGeom(R, C)`, its checks in order (R102). -/
def checkGeom (p : Params) (R C : Word) : List (Bool × ErrCode) :=
  [(positive R && positive C, .param),
   (decide (R.toNat * C.toNat ≤ p.mBlocks), .capacity)]

/-! ### Errors, the CORE's exceptions -/

/-- `raise code`: an error is recorded. `ERR <- code; DONE <- 1`; nothing is saved, nothing else changes (R131). -/
def raiseError (e : ErrCode) (s : State) : State := { s with err := some e, done := true }

/-- The return from an error, the effect of `CLR`: `ERR <- 0; DONE <- 0; HAZ <- 0` (R123, R132). -/
def clearStatus (s : State) : State := { s with err := none, done := false, haz := false }

/-! ### Acceptance and completion -/

/-- What a command would do: an error its checks raise at acceptance, or its effect, which either ends in a state
or reads a location that holds no value. -/
abbrev Plan := Except ErrCode (Except Fault State)

/-- A `CMD` write that offers a command other than `CLR` and `SRST`, from acceptance to completion as one atomic step
(R61, R63). While a command runs, or while an error is pending, the write is dropped and sets `HAZ`. -/
def issue (plan : State → Plan) (s : State) : Host.Outcome State Fault Refusal :=
  if busy s || s.err.isSome then .next (setHaz s)
  else
    match plan s with
    | .error e => .next (raiseError e s)
    | .ok (.ok s') => .next (complete s')
    | .ok (.error f) => .fault f

/-! ### Reset -/

/-- Every piece of the CORE's state takes its reset value (R30, R124, R141). The outside world's pending actions, the
last response, the count of free values and the mark on the run are not the CORE's and stay (log entries 2, 6, 9). -/
def resetState (s : State) : State :=
  { State.reset with port := s.port, resp := s.resp, freeCount := s.freeCount, offProtocol := s.offProtocol }

end Sys2Proof.Machine
end

