-- ==== Sys2Proof/Machine/Permutation.lean ====
section
/-! DEFINITION. Unit PR: the quarter-round, the round, the two transforms, the quarter-round sequencer, and the
commands `QR`, `PERM.R`, `PERM.F` (spec 40_permutation_round.md R71 to R79). -/

namespace Sys2Proof.Machine

/-- The four words of a quarter-round. -/
structure Quad where
  a : Word
  b : Word
  c : Word
  d : Word
  deriving DecidableEq, Repr

/-- The eight assignments of `G` on four words, in order (R71). -/
def mix (x : Quad) : Quad :=
  let a := x.a + x.b
  let d := rotr (x.d ^^^ a) 32
  let c := x.c + d
  let b := rotr (x.b ^^^ c) 24
  let a := a + b
  let d := rotr (d ^^^ a) 16
  let c := c + d
  let b := rotr (b ^^^ c) 63
  ⟨a, b, c, d⟩

/-- Four word indices of `S`. -/
structure QuadIndex where
  a : Fin 16
  b : Fin 16
  c : Fin 16
  d : Fin 16
  deriving DecidableEq, Repr

/-- `QTAB`: the eight index tuples of a round, columns then diagonals (R72). -/
def qtab : Fin 8 → QuadIndex
  | 0 => ⟨0, 4, 8, 12⟩
  | 1 => ⟨1, 5, 9, 13⟩
  | 2 => ⟨2, 6, 10, 14⟩
  | 3 => ⟨3, 7, 11, 15⟩
  | 4 => ⟨0, 5, 10, 15⟩
  | 5 => ⟨1, 6, 11, 12⟩
  | 6 => ⟨2, 7, 8, 13⟩
  | 7 => ⟨3, 4, 9, 14⟩

/-- The words of `S` a tuple names. -/
def gather (t : QuadIndex) (S : Vector Word 16) : Quad := ⟨S[t.a], S[t.b], S[t.c], S[t.d]⟩

/-- The four words of a tuple written back to `S`. -/
def scatter (t : QuadIndex) (x : Quad) (S : Vector Word 16) : Vector Word 16 :=
  (((S.set t.a x.a).set t.b x.b).set t.c x.c).set t.d x.d

/-- `G` on the words of `S` that tuple `q` of `QTAB` names (R71, R72). -/
def quarterRound (q : Fin 8) (S : Vector Word 16) : Vector Word 16 :=
  scatter (qtab q) (mix (gather (qtab q) S)) S

/-- `Round`: the eight quarter-rounds in the order of `QTAB` (R73). -/
def roundS (S : Vector Word 16) : Vector Word 16 :=
  [0, 1, 2, 3, 4, 5, 6, 7].foldl (fun S q => quarterRound q S) S

/-- `n` rounds, one after another. -/
def rounds : Nat → Vector Word 16 → Vector Word 16
  | 0, S => S
  | n + 1, S => rounds n (roundS S)

/-- `ReducedTransform`: exactly one round (R74). -/
def reducedTransform (S : Vector Word 16) : Vector Word 16 := rounds 1 S

/-- `FullTransform`: exactly twelve rounds (R75). -/
def fullTransform (S : Vector Word 16) : Vector Word 16 := rounds 12 S

/-! ### The quarter-round sequencer (R77) -/

/-- The sequencer starts a transform of `n` rounds: `TGT <- n; RND <- 0; QIDX <- 0`. -/
def seqStart (n : BitVec 4) (s : State) : State := { s with seq := { s.seq with tgt := n, rnd := 0, qidx := 0 } }

/-- One micro-step of the sequencer: one quarter-round, then the counters. The flag says that the transform is
complete. -/
def seqMicroStep (s : State) : State × Bool :=
  let S := quarterRound s.seq.qidx.toFin s.S
  let qidx := s.seq.qidx + 1
  let rnd := if qidx = 0 then s.seq.rnd + 1 else s.seq.rnd
  if rnd = s.seq.tgt then ({ s with S := S, seq := { s.seq with qidx := qidx, rnd := 0, tgt := 0 } }, true)
  else ({ s with S := S, seq := { s.seq with qidx := qidx, rnd := rnd } }, false)

/-- The sequencer runs until the transform is complete, for at most `fuel` micro-steps. -/
def seqRun : Nat → State → State
  | 0, s => s
  | fuel + 1, s => if (seqMicroStep s).2 then (seqMicroStep s).1 else seqRun fuel (seqMicroStep s).1

/-- A transform of `n` rounds as the sequencer runs it, in `8n` micro-steps (R77). -/
def seqTransform (n : BitVec 4) (s : State) : State := seqRun (8 * n.toNat) (seqStart n s)

/-! ### Commands -/

/-- `QR q`: the pseudocode of R76. -/
def planQr (q : Fin 8) (s : State) : Plan := .ok (.ok { s with S := quarterRound q s.S })

/-- `PERM.R`: the pseudocode of R78. -/
def planPermR (s : State) : Plan := .ok (.ok { s with S := reducedTransform s.S })

/-- `PERM.F`: the pseudocode of R79. -/
def planPermF (s : State) : Plan := .ok (.ok { s with S := fullTransform s.S })

/-- `QR q` (R76). -/
def execQr (q : Fin 8) (s : State) : Host.Outcome State Fault Refusal := issue (planQr q) s

/-- `PERM.R` (R78). -/
def execPermR (s : State) : Host.Outcome State Fault Refusal := issue planPermR s

/-- `PERM.F` (R79). -/
def execPermF (s : State) : Host.Outcome State Fault Refusal := issue planPermF s

end Sys2Proof.Machine
end

