-- ==== Sys2Proof/Machine/Sponge.lean ====
section
/-! DEFINITION. Unit SE: `InitState`, absorption, squeeze, and the commands `SINIT`, `ABSF`, `ABSS`, `SQZ`
(spec 41_sponge_engine.md R81 to R89). -/

namespace Sys2Proof.Machine

/-- `InitState` (R81). -/
def initState (p : Params) : Vector Word 16 := initWords p.iv

/-- The first `n` words of `S` XORed with `n` words, the others kept. -/
def xorInto {n : Nat} (ws : Vector Word n) (S : Vector Word 16) : Vector Word 16 :=
  Vector.ofFn fun i => if h : i.val < n then S[i] ^^^ ws[i.val] else S[i]

/-- `AbsorbFull`: XOR 12 words into `S[0..12)`, then the full transform (R82). -/
def absorbFull (blk : Vector Word 12) (S : Vector Word 16) : Vector Word 16 := fullTransform (xorInto blk S)

/-- `AbsorbSafe`: XOR 8 words into `S[0..8)`, then the full transform (R83). -/
def absorbSafe (blk : Vector Word 8) (S : Vector Word 16) : Vector Word 16 := fullTransform (xorInto blk S)

/-- `S[0..12)`, the words absorption and squeeze touch (R84). -/
def rate (S : Vector Word 16) : Vector Word 12 := Vector.ofFn fun i => S[i.val]

/-- The full blocks of a squeeze: 96 bytes of `S[0..12)`, then a full transform, `n` times (R85). -/
def squeezeBlocks : Nat → Vector Word 16 → List Byte × Vector Word 16
  | 0, S => ([], S)
  | n + 1, S =>
    (le64s (rate S).toList ++ (squeezeBlocks n (fullTransform S)).1, (squeezeBlocks n (fullTransform S)).2)

/-- `Squeeze(outLen)`: the bytes squeezed and the state left behind (R85). -/
def squeeze (outLen : Nat) (S : Vector Word 16) : List Byte × Vector Word 16 :=
  ((squeezeBlocks (outLen / 96) S).1 ++ (le64s (squeezeBlocks (outLen / 96) S).2.toList).take (outLen % 96),
   (squeezeBlocks (outLen / 96) S).2)

/-- Safe block `n` of PADBUF as eight little-endian words (R83, R88). -/
def readSafeBlock (m : Memory) (n : Nat) : Except Fault (Vector Word 8) := readWords m (padBase + 64 * n) 8

/-! ### Commands -/

/-- `SINIT`: the pseudocode of R86. -/
def planSinit (p : Params) (s : State) : Plan := .ok (.ok { s with S := initState p })

/-- `ABSF row, col`: checks and pseudocode of R87. -/
def planAbsf (p : Params) (row col : Nat) (s : State) : Plan :=
  match firstFailing (checkGeom p s.nRows s.nCols ++
      [(decide (row < s.nRows.toNat) && decide (col < s.nCols.toNat), .operand)]) with
  | some e => .error e
  | none => .ok
    (match readBlock s.mem s.nCols.toNat row col with
    | .error f => .error f
    | .ok blk => .ok { s with S := absorbFull blk s.S })

/-- `ABSS n`: check and pseudocode of R88. -/
def planAbss (n : Nat) (s : State) : Plan :=
  match firstFailing [(decide (n < s.nBlk.toNat), .operand)] with
  | some e => .error e
  | none => .ok
    (match readSafeBlock s.mem n with
    | .error f => .error f
    | .ok blk => .ok { s with S := absorbSafe blk s.S })

/-- `SQZ`: check and pseudocode of R89. -/
def planSqz (p : Params) (s : State) : Plan :=
  match firstFailing [(decide (s.outLen.toNat ≤ p.outMax), .capacity)] with
  | some e => .error e
  | none => .ok (.ok { s with
      S := (squeeze s.outLen.toNat s.S).2
      mem := memWrite s.mem outBase (squeeze s.outLen.toNat s.S).1 })

/-- `SINIT` (R86). -/
def execSinit (s : State) : Host.Outcome State Fault Refusal := issue (planSinit Config.params) s

/-- `ABSF row, col` (R87). -/
def execAbsf (row col : Nat) (s : State) : Host.Outcome State Fault Refusal :=
  issue (planAbsf Config.params row col) s

/-- `ABSS n` (R88). -/
def execAbss (n : Nat) (s : State) : Host.Outcome State Fault Refusal := issue (planAbss n) s

/-- `SQZ` (R89). -/
def execSqz (s : State) : Host.Outcome State Fault Refusal := issue (planSqz Config.params) s

end Sys2Proof.Machine
end

