-- ==== Sys2Proof/Machine/MemoryHard.lean ====
section
/-! DEFINITION. Unit MHC with its Memory Matrix: padding, the row operations, Setup, Wandering, finalization, and the
commands `PAD`, `SQROW0`, `DPXROW1`, `DPXSETUP`, `DPXWANDER`, `SETUP`, `WANDER`, `DERIVE`
(spec 42_memory_hard_core.md R90 to R110). -/

namespace Sys2Proof.Machine

/-- What the procedures of this unit work on: the Internal State and the storage. -/
structure Work where
  S : Vector Word 16
  mem : Memory
  deriving DecidableEq, Repr

/-- What Setup leaves in the sequencer registers, as the mathematical integers of the pseudocode (R12, R96). -/
structure Sched where
  row : Nat
  prev : Nat
  rowa : Nat
  stride : Int
  window : Nat
  gap : Int
  deriving DecidableEq, Repr

/-- What Wandering leaves in the sequencer registers (R98). -/
structure Tour where
  row : Nat
  prev : Nat
  rowa : Nat
  stride : Int
  tau : Nat
  deriving DecidableEq, Repr

/-! ### Padding -/

/-- The number of 64-byte safe blocks of the padded input (R90). -/
def padBlocks (pwdLen saltLen : Nat) : Nat := (pwdLen + saltLen + 48) / 64 + 1

/-- The message before zero padding: password, salt, six `LE64` fields, `0x80` (R90). -/
def padMessage (outLen : Word) (pwd salt : List Byte) (t R C : Word) : List Byte :=
  pwd ++ salt ++ le64 outLen ++ le64 (natReg pwd.length) ++ le64 (natReg salt.length) ++ le64 t ++ le64 R ++ le64 C
    ++ [0x80#8]

/-- A message zero-padded to whole safe blocks, its last byte XORed with `0x01` (R90). -/
def padFill (m : List Byte) : List Byte :=
  let n := (m.length + 63) / 64
  (m ++ List.replicate (64 * n - m.length) 0#8).modify (64 * n - 1) (· ^^^ 0x01#8)

/-- The padded input that `PadProc` writes to PADBUF (R90). -/
def padInput (outLen : Word) (pwd salt : List Byte) (t R C : Word) : List Byte :=
  padFill (padMessage outLen pwd salt t R C)

/-- `PadProc`: PADBUF with the padded input in it; `NBLK` becomes `padBlocks` (R90). -/
def padProc (outLen : Word) (pwd salt : List Byte) (t R C : Word) (m : Memory) : Memory :=
  memWrite m padBase (padInput outLen pwd salt t R C)

/-! ### Row operations -/

/-- `f col`, `f (col + 1)`, … , `n` columns in ascending order, each on what the one before it left. -/
def forCols (f : Nat → Work → Except Fault Work) : (n col : Nat) → Work → Except Fault Work
  | 0, _, w => .ok w
  | n + 1, col, w =>
    match f col w with
    | .error e => .error e
    | .ok w' => forCols f n (col + 1) w'

/-- One iteration `i` of `SqueezeRow0` (R91). -/
def squeezeRow0Step (p : Params) (rout C i : Nat) (w : Work) : Except Fault Work :=
  .ok { S := if p.row0Trailing || decide (i < C - 1) then reducedTransform w.S else w.S
        mem := writeBlock w.mem C rout (C - 1 - i) (rate w.S) }

/-- `SqueezeRow0(rout, C)`: row `rout` filled from the state, last column first (R91). -/
def squeezeRow0 (p : Params) (rout C : Nat) (w : Work) : Except Fault Work :=
  forCols (squeezeRow0Step p rout C) C 0 w

/-- Word by word XOR of two blocks. -/
def xorBlock (x y : Vector Word 12) : Vector Word 12 := Vector.ofFn fun k => x[k] ^^^ y[k]

/-- Word by word addition of two blocks, each modulo 2^64 (R93, R94). -/
def addBlock (x y : Vector Word 12) : Vector Word 12 := Vector.ofFn fun k => x[k] + y[k]

/-- The rate words moved on by one position: word `k` is `S[(k + 11) mod 12]` (R93, R94). -/
def rotatedRate (S : Vector Word 16) : Vector Word 12 :=
  Vector.ofFn fun k => (rate S)[(k.val + 11) % 12]'(Nat.mod_lt _ (by decide))

/-- One column of `DuplexRow1` (R92). -/
def duplexRow1Step (rin rout C col : Nat) (w : Work) : Except Fault Work :=
  match readBlock w.mem C rin col with
  | .error f => .error f
  | .ok x =>
    let S := reducedTransform (xorInto x w.S)
    .ok { S := S, mem := writeBlock w.mem C rout (C - 1 - col) (xorBlock x (rate S)) }

/-- `DuplexRow1(rin, rout, C)` (R92). -/
def duplexRow1 (rin rout C : Nat) (w : Work) : Except Fault Work := forCols (duplexRow1Step rin rout C) C 0 w

/-- The column at which Setup writes the new row (R93). -/
def newRowCol (p : Params) (C col : Nat) : Nat := if p.newRowReversed then C - 1 - col else col

/-- One column of `DuplexRowSetup` (R93). DESIGN CHOICE (log entry 4): the block of `prev` is read whole before that of
`rowa`, where R93 takes their words in turn, so if both lack a value the fault names the first such byte of `prev`. -/
def duplexRowSetupStep (p : Params) (prev rowa rnew C col : Nat) (w : Work) : Except Fault Work :=
  match readBlock w.mem C prev col with
  | .error f => .error f
  | .ok x =>
    match readBlock w.mem C rowa col with
    | .error f => .error f
    | .ok y =>
      let S := reducedTransform (xorInto (addBlock x y) w.S)
      let m := writeBlock w.mem C rnew (newRowCol p C col) (xorBlock x (rate S))
      .ok { S := S, mem := writeBlock m C rowa col (xorBlock y (rotatedRate S)) }

/-- `DuplexRowSetup(prev, rowa, rnew, C)` (R93). -/
def duplexRowSetup (p : Params) (prev rowa rnew C : Nat) (w : Work) : Except Fault Work :=
  forCols (duplexRowSetupStep p prev rowa rnew C) C 0 w

/-- One column of `DuplexRow`: all 24 reads, the transform, then the two updates in order, the second reading what
the first wrote when the rows coincide (R94, R95). DESIGN CHOICE (log entry 4): the block of `prev` is read whole before
that of `rowa`, where R94 takes their words in turn, so if both lack a value the fault names the first such byte of
`prev`. -/
def duplexRowStep (prev rowa row C col : Nat) (w : Work) : Except Fault Work :=
  match readBlock w.mem C prev col with
  | .error f => .error f
  | .ok x =>
    match readBlock w.mem C rowa col with
    | .error f => .error f
    | .ok y =>
      let S := reducedTransform (xorInto (addBlock x y) w.S)
      match readBlock w.mem C row col with
      | .error f => .error f
      | .ok z =>
        let m := writeBlock w.mem C row col (xorBlock z (rate S))
        match readBlock m C rowa col with
        | .error f => .error f
        | .ok y' => .ok { S := S, mem := writeBlock m C rowa col (xorBlock y' (rotatedRate S)) }

/-- `DuplexRow(prev, rowa, row, C)` (R94). -/
def duplexRow (prev rowa row C : Nat) (w : Work) : Except Fault Work :=
  forCols (duplexRowStep prev rowa row C) C 0 w

/-! ### Setup -/

/-- The schedule's next position, after the row at `ROW` is built (R96). -/
def schedNext (c : Sched) : Sched :=
  let rowa := (((c.rowa : Int) + c.stride) % (c.window : Int)).toNat
  if rowa = 0 then
    { row := c.row + 1, prev := c.row, rowa := rowa, stride := (c.window : Int) + c.gap, window := 2 * c.window,
      gap := -c.gap }
  else { c with row := c.row + 1, prev := c.row, rowa := rowa }

/-- The schedule when the loop of Setup begins (R96). -/
def schedFirst : Sched := { row := 2, prev := 1, rowa := 0, stride := 1, window := 2, gap := 1 }

/-- The loop of Setup for `n` more rows: the `while ROW < R` of R96 runs `R - 2` times, since `ROW` starts at 2 and
grows by 1. -/
def setupLoop (p : Params) (C : Nat) : Nat → Sched → Work → Except Fault (Work × Sched)
  | 0, c, w => .ok (w, c)
  | n + 1, c, w =>
    match duplexRowSetup p c.prev c.rowa c.row C w with
    | .error f => .error f
    | .ok w' => setupLoop p C n (schedNext c) w'

/-- `SetupProc(R, C)` (R96). -/
def setupProc (p : Params) (R C : Nat) (w : Work) : Except Fault (Work × Sched) :=
  match squeezeRow0 p 0 C w with
  | .error f => .error f
  | .ok w1 =>
    match duplexRow1 0 1 C w1 with
    | .error f => .error f
    | .ok w2 => setupLoop p C (R - 2) schedFirst w2

/-! ### Wandering -/

/-- One visit of Wandering: `ROWA <- S[0] umod R`, `DuplexRow`, `PREV <- ROW`, `ROW <- (ROW + STEP) mod R` (R98). -/
def wanderVisit (R C : Nat) (x : Work × Tour) : Except Fault (Work × Tour) :=
  let rowa := x.1.S[0].toNat % R
  match duplexRow x.2.prev rowa x.2.row C x.1 with
  | .error f => .error f
  | .ok w => .ok (w, { x.2 with
      rowa := rowa, prev := x.2.row, row := (((x.2.row : Int) + x.2.stride) % (R : Int)).toNat })

/-- `repeat … until ROW = 0` (R98), for at most `fuel` visits. `R` visits always suffice: adding a constant modulo
`R` returns to 0 within `R` passes (R148). -/
def wanderPass (R C : Nat) : Nat → Work × Tour → Except Fault (Work × Tour)
  | 0, x => .ok x
  | fuel + 1, x =>
    match wanderVisit R C x with
    | .error f => .error f
    | .ok y => if y.2.row = 0 then .ok y else wanderPass R C fuel y

/-- `STEP` in pass `tau`: -1 when `tau` is even, else `R div 2 - 1` (R98). -/
def wanderStride (R tau : Nat) : Int := if tau % 2 = 0 then -1 else ((R / 2 : Nat) : Int) - 1

/-- The passes `tau`, `tau + 1`, … , `n` of them (R98). -/
def wanderPasses (R C : Nat) : (n tau : Nat) → Work × Tour → Except Fault (Work × Tour)
  | 0, _, x => .ok x
  | n + 1, tau, x =>
    match wanderPass R C R (x.1, { x.2 with tau := tau, stride := wanderStride R tau }) with
    | .error f => .error f
    | .ok y => wanderPasses R C n (tau + 1) y

/-- `WanderProc(T, R, C)` entered with `PREV = prev` (R98). -/
def wanderProc (T R C prev : Nat) (w : Work) : Except Fault (Work × Tour) :=
  wanderPasses R C T 1 (w, { row := 0, prev := prev, rowa := 0, stride := 0, tau := 0 })

/-! ### Finalization and the whole derivation -/

/-- `FinalProc(outLen)`: absorb the column-0 block of row `rowa`, then squeeze (R99). -/
def finalProc (outLen rowa C : Nat) (w : Work) : Except Fault (List Byte × Work) :=
  match readBlock w.mem C rowa 0 with
  | .error f => .error f
  | .ok blk =>
    .ok ((squeeze outLen (absorbFull blk w.S)).1, { w with S := (squeeze outLen (absorbFull blk w.S)).2 })

/-- The initial absorption of safe blocks `blk`, `blk + 1`, … , `n` of them (R100). -/
def absorbBlocks : (n blk : Nat) → Work → Except Fault Work
  | 0, _, w => .ok w
  | n + 1, blk, w =>
    match readSafeBlock w.mem blk with
    | .error f => .error f
    | .ok b => absorbBlocks n (blk + 1) { w with S := absorbSafe b w.S }

/-- What a derivation leaves: the bytes it returns and everything it writes (R100). -/
structure Derived where
  out : List Byte
  work : Work
  nBlk : Nat
  sched : Sched
  tour : Tour
  deriving DecidableEq, Repr

/-- `DeriveProc(outLen, pwd, salt, t, R, C)` (R100). -/
def deriveProc (p : Params) (outLen : Word) (pwd salt : List Byte) (t R C : Word) (m : Memory) :
    Except Fault Derived :=
  let n := padBlocks pwd.length salt.length
  match absorbBlocks n 0 { S := initState p, mem := padProc outLen pwd salt t R C m } with
  | .error f => .error f
  | .ok w1 =>
    match setupProc p R.toNat C.toNat w1 with
    | .error f => .error f
    | .ok (w2, c) =>
      match wanderProc t.toNat R.toNat C.toNat c.prev w2 with
      | .error f => .error f
      | .ok (w3, u) =>
        match finalProc outLen.toNat u.rowa C.toNat w3 with
        | .error f => .error f
        | .ok (out, w4) => .ok { out := out, work := w4, nBlk := n, sched := c, tour := u }

/-! ### Storing the loop variables (R18) -/

/-- The Internal State and the storage of a procedure's result. -/
def storeWork (w : Work) (s : State) : State := { s with S := w.S, mem := w.mem }

/-- The registers Setup writes (R96). -/
def storeSched (c : Sched) (s : State) : State :=
  { s with row := natReg c.row, prev := natReg c.prev, rowa := natReg c.rowa, stride := intReg c.stride,
           window := natReg c.window, gap := intReg c.gap }

/-- The registers Wandering writes (R98). -/
def storeTour (u : Tour) (s : State) : State :=
  { s with row := natReg u.row, prev := natReg u.prev, rowa := natReg u.rowa, stride := intReg u.stride,
           tau := natReg u.tau }

/-- Everything a derivation writes but its result's bytes (R100). -/
def storeDerived (d : Derived) (s : State) : State :=
  { storeTour d.tour (storeSched d.sched (storeWork d.work s)) with nBlk := natReg d.nBlk }

/-! ### Commands -/

/-- The capacity checks of the padded input, in order (R103, R110). -/
def checkPad (p : Params) (s : State) : List (Bool × ErrCode) :=
  [(decide (s.pwdLen.toNat ≤ p.pwdMax), .capacity),
   (decide (s.saltLen.toNat ≤ p.saltMax), .capacity),
   (decide (64 * padBlocks s.pwdLen.toNat s.saltLen.toNat ≤ p.padMax), .capacity)]

/-- `PAD`: checks and pseudocode of R103. -/
def planPad (p : Params) (s : State) : Plan :=
  match firstFailing (checkPad p s) with
  | some e => .error e
  | none => .ok
    (match readBytes s.mem pwdBase s.pwdLen.toNat with
    | .error f => .error f
    | .ok pwd =>
      match readBytes s.mem saltBase s.saltLen.toNat with
      | .error f => .error f
      | .ok salt => .ok { s with
          mem := padProc s.outLen pwd salt s.timeCost s.nRows s.nCols s.mem
          nBlk := natReg (padBlocks pwd.length salt.length) })

/-- What a row command does with a row operation's result. -/
def rowEffect (op : Work → Except Fault Work) (s : State) : Except Fault State :=
  match op { S := s.S, mem := s.mem } with
  | .error f => .error f
  | .ok w => .ok (storeWork w s)

/-- The operand names a row of the matrix. -/
def rowOk (s : State) (r : Nat) : Bool := decide (r < s.nRows.toNat)

/-- `SQROW0 rout`: checks and pseudocode of R104. -/
def planSqrow0 (p : Params) (rout : Nat) (s : State) : Plan :=
  match firstFailing (checkGeom p s.nRows s.nCols ++ [(rowOk s rout, .operand)]) with
  | some e => .error e
  | none => .ok (rowEffect (squeezeRow0 p rout s.nCols.toNat) s)

/-- `DPXROW1 rin, rout`: checks and pseudocode of R105. -/
def planDpxrow1 (p : Params) (rin rout : Nat) (s : State) : Plan :=
  match firstFailing (checkGeom p s.nRows s.nCols ++
      [(rowOk s rin && rowOk s rout && decide (rin ≠ rout), .operand)]) with
  | some e => .error e
  | none => .ok (rowEffect (duplexRow1 rin rout s.nCols.toNat) s)

/-- `DPXSETUP prev, rowa, rnew`: checks and pseudocode of R106. -/
def planDpxsetup (p : Params) (prev rowa rnew : Nat) (s : State) : Plan :=
  match firstFailing (checkGeom p s.nRows s.nCols ++
      [(rowOk s prev && rowOk s rowa && rowOk s rnew &&
        decide (prev ≠ rowa) && decide (prev ≠ rnew) && decide (rowa ≠ rnew), .operand)]) with
  | some e => .error e
  | none => .ok (rowEffect (duplexRowSetup p prev rowa rnew s.nCols.toNat) s)

/-- `DPXWANDER prev, rowa, row`: checks and pseudocode of R107. -/
def planDpxwander (p : Params) (prev rowa row : Nat) (s : State) : Plan :=
  match firstFailing (checkGeom p s.nRows s.nCols ++
      [(rowOk s prev && rowOk s rowa && rowOk s row, .operand)]) with
  | some e => .error e
  | none => .ok (rowEffect (duplexRow prev rowa row s.nCols.toNat) s)

/-- `SETUP`: checks and pseudocode of R108. -/
def planSetup (p : Params) (s : State) : Plan :=
  match firstFailing (checkParams p 1 s.nRows s.nCols) with
  | some e => .error e
  | none => .ok
    (match setupProc p s.nRows.toNat s.nCols.toNat { S := s.S, mem := s.mem } with
    | .error f => .error f
    | .ok (w, c) => .ok (storeSched c (storeWork w s)))

/-- `WANDER`: checks and pseudocode of R109. -/
def planWander (p : Params) (s : State) : Plan :=
  match firstFailing (checkParams p s.timeCost s.nRows s.nCols ++
      [(decide (s.prev.toNat < s.nRows.toNat), .operand)]) with
  | some e => .error e
  | none => .ok
    (match wanderProc s.timeCost.toNat s.nRows.toNat s.nCols.toNat s.prev.toNat { S := s.S, mem := s.mem } with
    | .error f => .error f
    | .ok (w, u) => .ok (storeTour u (storeWork w s)))

/-- `DERIVE`: checks and pseudocode of R110. -/
def planDerive (p : Params) (s : State) : Plan :=
  match firstFailing (checkParams p s.timeCost s.nRows s.nCols ++ checkPad p s ++
      [(decide (s.outLen.toNat ≤ p.outMax), .capacity)]) with
  | some e => .error e
  | none => .ok
    (match readBytes s.mem pwdBase s.pwdLen.toNat with
    | .error f => .error f
    | .ok pwd =>
      match readBytes s.mem saltBase s.saltLen.toNat with
      | .error f => .error f
      | .ok salt =>
        match deriveProc p s.outLen pwd salt s.timeCost s.nRows s.nCols s.mem with
        | .error f => .error f
        | .ok d => .ok { storeDerived d s with mem := memWrite d.work.mem outBase d.out })

/-- `PAD` (R103). -/
def execPad (s : State) : Host.Outcome State Fault Refusal := issue (planPad Config.params) s

/-- `SQROW0 rout` (R104). -/
def execSqrow0 (rout : Nat) (s : State) : Host.Outcome State Fault Refusal :=
  issue (planSqrow0 Config.params rout) s

/-- `DPXROW1 rin, rout` (R105). -/
def execDpxrow1 (rin rout : Nat) (s : State) : Host.Outcome State Fault Refusal :=
  issue (planDpxrow1 Config.params rin rout) s

/-- `DPXSETUP prev, rowa, rnew` (R106). -/
def execDpxsetup (prev rowa rnew : Nat) (s : State) : Host.Outcome State Fault Refusal :=
  issue (planDpxsetup Config.params prev rowa rnew) s

/-- `DPXWANDER prev, rowa, row` (R107). -/
def execDpxwander (prev rowa row : Nat) (s : State) : Host.Outcome State Fault Refusal :=
  issue (planDpxwander Config.params prev rowa row) s

/-- `SETUP` (R108). -/
def execSetup (s : State) : Host.Outcome State Fault Refusal := issue (planSetup Config.params) s

/-- `WANDER` (R109). -/
def execWander (s : State) : Host.Outcome State Fault Refusal := issue (planWander Config.params) s

/-- `DERIVE` (R110). -/
def execDerive (s : State) : Host.Outcome State Fault Refusal := issue (planDerive Config.params) s

end Sys2Proof.Machine
end

