-- ==== Sys2Proof/Machine/Chain.lean ====
section
/-! DEFINITION. Units HPA and CO: the HashPrimitive adapter, one hash stage, the chain, and the commands `HP.RESET`,
`HP.UPDATE`, `HP.DIGEST`, `HSTAGE`, `POWHASH` (spec 43_chain_orchestrator.md R111 to R120). -/

namespace Sys2Proof.Machine

/-- `Hk(m)` (R8, R13, R111). -/
def hashOf (p : Params) (u : Fin 5) (m : List Byte) : List Byte := (p.hash u m).toList

/-- One hash stage: the whole source is read, then all 32 bytes of the destination are written (R116, R120). -/
def hashStage (p : Params) (u : Fin 5) (src dst : Buf) (m : Memory) : Except Fault Memory :=
  match readBuf m src with
  | .error f => .error f
  | .ok bs => .ok (writeBuf m dst (hashOf p u bs))

/-- Stages of the chain, each on the storage the one before it left (R118). -/
def hashStages (p : Params) : List (Fin 5 × Buf × Buf) → Memory → Except Fault Memory
  | [], m => .ok m
  | (u, src, dst) :: rest, m =>
    match hashStage p u src dst m with
    | .error f => .error f
    | .ok m' => hashStages p rest m'

/-- Stages 1 to 3 (R118): three of the six calls of hash units, where R147 counts seven (DEDUCED, log entry 21). -/
def stagesBefore : List (Fin 5 × Buf × Buf) := [(0, .hdr, .bufA), (1, .bufA, .bufB), (2, .bufB, .bufA)]

/-- Stages 5 to 7 (R118): the other three of the six calls of hash units (DEDUCED, log entry 21). -/
def stagesAfter : List (Fin 5 × Buf × Buf) := [(3, .bufB, .bufA), (2, .bufA, .bufB), (4, .bufB, .bufA)]

/-- Stage 4: `BUFB <- DeriveProc(32, BUFA, BUFA, 1, 4, 4)` (R118). -/
def deriveStage (p : Params) (m : Memory) : Except Fault Derived :=
  match readBuf m .bufA with
  | .error f => .error f
  | .ok a =>
    match deriveProc p 32 a a 1 4 4 m with
    | .error f => .error f
    | .ok d => .ok { d with work := { d.work with mem := writeBuf d.work.mem .bufB d.out } }

/-! ### Commands -/

/-- `HDR` is the source only when `HDRLEN = 80` (R17, R114, R116). -/
def hdrLenOk (b : Buf) (s : State) : Bool := decide (b ≠ .hdr) || decide (s.hdrLen = 80)

/-- `HP.RESET k`: check and pseudocode of R113. -/
def planHpReset (k : Nat) (s : State) : Plan :=
  match unit? k with
  | none => .error .operand
  | some u => .ok (.ok { s with acc := s.acc.set u (some []) })

/-- `HP.UPDATE k, src`: checks and pseudocode of R114. -/
def planHpUpdate (k src : Nat) (s : State) : Plan :=
  match unit? k, srcBuf? src with
  | some u, some b =>
    match firstFailing [(hdrLenOk b s, .hdrLen)], s.acc[u] with
    | some e, _ => .error e
    | none, none => .error .hpSeq
    | none, some fed => .ok
      (match readBuf s.mem b with
      | .error f => .error f
      | .ok bs => .ok { s with acc := s.acc.set u (some (fed ++ bs)) })
  | _, _ => .error .operand

/-- `HP.DIGEST k, dst`: checks and pseudocode of R115. -/
def planHpDigest (p : Params) (k dst : Nat) (s : State) : Plan :=
  match unit? k, dstBuf? dst with
  | some u, some b =>
    match s.acc[u] with
    | none => .error .hpSeq
    | some fed => .ok (.ok { s with mem := writeBuf s.mem b (hashOf p u fed), acc := s.acc.set u none })
  | _, _ => .error .operand

/-- `HSTAGE k, src, dst`: checks and pseudocode of R116. -/
def planHstage (p : Params) (k src dst : Nat) (s : State) : Plan :=
  match unit? k, srcBuf? src, dstBuf? dst with
  | some u, some b, some d =>
    match firstFailing [(decide (b ≠ d), .operand), (hdrLenOk b s, .hdrLen)] with
    | some e => .error e
    | none => .ok
      (match hashStage p u b d s.mem with
      | .error f => .error f
      | .ok m => .ok { s with mem := m, acc := s.acc.set u none })
  | _, _, _ => .error .operand

/-- `POWHASH`: check and pseudocode of R119. DEDUCED, unsafe (log entry 21): it calls the hash units six times, once in
each stage of R118 but the derivation of stage 4, where the counts of R147 speak of seven calls. -/
def planPowhash (p : Params) (s : State) : Plan :=
  match firstFailing [(decide (s.hdrLen = 80), .hdrLen)] with
  | some e => .error e
  | none => .ok
    (match hashStages p stagesBefore s.mem with
    | .error f => .error f
    | .ok m3 =>
      match deriveStage p m3 with
      | .error f => .error f
      | .ok d =>
        match hashStages p stagesAfter d.work.mem with
        | .error f => .error f
        | .ok m7 => .ok { storeDerived d s with mem := m7, acc := Vector.replicate 5 none })

/-- `HP.RESET k` (R113). -/
def execHpReset (k : Nat) (s : State) : Host.Outcome State Fault Refusal := issue (planHpReset k) s

/-- `HP.UPDATE k, src` (R114). -/
def execHpUpdate (k src : Nat) (s : State) : Host.Outcome State Fault Refusal := issue (planHpUpdate k src) s

/-- `HP.DIGEST k, dst` (R115). -/
def execHpDigest (k dst : Nat) (s : State) : Host.Outcome State Fault Refusal :=
  issue (planHpDigest Config.params k dst) s

/-- `HSTAGE k, src, dst` (R116). -/
def execHstage (k src dst : Nat) (s : State) : Host.Outcome State Fault Refusal :=
  issue (planHstage Config.params k src dst) s

/-- `POWHASH` (R119). -/
def execPowhash (s : State) : Host.Outcome State Fault Refusal := issue (planPowhash Config.params) s

end Sys2Proof.Machine
end

