-- ==== Sys2Proof/Machine/System.lean ====
section
/-! DEFINITION. The system commands `NOP`, `CLR`, `SRST` (spec 44_system_commands.md R122 to R124). -/

namespace Sys2Proof.Machine

/-- `NOP`: accepted and completed, nothing else (R122). -/
def planNop (s : State) : Plan := .ok (.ok s)

/-- `NOP` (R122). -/
def execNop (s : State) : Host.Outcome State Fault Refusal := issue planNop s

/-- `CLR`, the return from an error: runs at once, also while an error is pending; dropped while a command runs
(R61, R123). -/
def execClr (s : State) : Host.Outcome State Fault Refusal :=
  if busy s then .next (setHaz s) else .next (clearStatus s)

/-- `SRST`: runs at once, also while an error is pending; dropped while a command runs (R61, R124). -/
def execSrst (s : State) : Host.Outcome State Fault Refusal :=
  if busy s then .next (setHaz s) else .next (resetState s)

end Sys2Proof.Machine
end

