-- ==== Sys2Proof/Machine/Dispatch.lean ====
section
/-! DEFINITION. Which meaning each command has (spec 30_encoding.md R58): one arm per constructor. -/

namespace Sys2Proof.Machine

def exec (i : Instr) (s : State) : Host.Outcome State Fault Refusal :=
  match i with
  | .nop => Sys2Proof.Machine.execNop s
  | .clr => Sys2Proof.Machine.execClr s
  | .srst => Sys2Proof.Machine.execSrst s
  | .qr q => Sys2Proof.Machine.execQr q s
  | .permR => Sys2Proof.Machine.execPermR s
  | .permF => Sys2Proof.Machine.execPermF s
  | .sinit => Sys2Proof.Machine.execSinit s
  | .absf row col => Sys2Proof.Machine.execAbsf row col s
  | .abss n => Sys2Proof.Machine.execAbss n s
  | .sqz => Sys2Proof.Machine.execSqz s
  | .pad => Sys2Proof.Machine.execPad s
  | .sqrow0 rout => Sys2Proof.Machine.execSqrow0 rout s
  | .dpxrow1 rin rout => Sys2Proof.Machine.execDpxrow1 rin rout s
  | .dpxsetup prev rowa rnew => Sys2Proof.Machine.execDpxsetup prev rowa rnew s
  | .dpxwander prev rowa row => Sys2Proof.Machine.execDpxwander prev rowa row s
  | .setup => Sys2Proof.Machine.execSetup s
  | .wander => Sys2Proof.Machine.execWander s
  | .derive => Sys2Proof.Machine.execDerive s
  | .hpReset k => Sys2Proof.Machine.execHpReset k s
  | .hpUpdate k src => Sys2Proof.Machine.execHpUpdate k src s
  | .hpDigest k dst => Sys2Proof.Machine.execHpDigest k dst s
  | .hstage k src dst => Sys2Proof.Machine.execHstage k src dst s
  | .powhash => Sys2Proof.Machine.execPowhash s

end Sys2Proof.Machine
end

