-- ==== Sys2Proof/Machine/Port.lean ====
section
/-! DEFINITION. The host port: the address map, reads, writes and bus errors, the acceptance protocol of a `CMD`
write, accesses while a command runs, and the reset input (spec 20_memory.md R36 to R46; 30_encoding.md R61 to R63;
70_reset_and_hazards.md R141). -/

namespace Sys2Proof.Machine

/-! ### The address map (R37) -/

/-- The registers of the address map. -/
inductive HostReg where
  | cmd | status
  | outLen | pwdLen | saltLen | timeCost | nRows | nCols | hdrLen
  | nBlk | row | prev | rowa | stride | window | gap | tau
  deriving DecidableEq, Repr

/-- The registers and their addresses (R37). -/
def regMap : List (Nat × HostReg) :=
  [(0x0000, .cmd), (0x0008, .status), (0x0010, .outLen), (0x0018, .pwdLen), (0x0020, .saltLen),
   (0x0028, .timeCost), (0x0030, .nRows), (0x0038, .nCols), (0x0040, .hdrLen), (0x0048, .nBlk), (0x0050, .row),
   (0x0058, .prev), (0x0060, .rowa), (0x0068, .stride), (0x0070, .window), (0x0078, .gap), (0x0080, .tau)]

/-- The address lies in HDR, BUFA, BUFB, PWD, SALT, OUT, PADBUF or M (R37). -/
def memMapped (p : Params) (a : Nat) : Bool :=
  (decide (hdrBase ≤ a) && decide (a < hdrBase + 80)) ||
  (decide (bufABase ≤ a) && decide (a < bufABase + 32)) ||
  (decide (bufBBase ≤ a) && decide (a < bufBBase + 32)) ||
  (decide (pwdBase ≤ a) && decide (a < pwdBase + p.pwdMax)) ||
  (decide (saltBase ≤ a) && decide (a < saltBase + p.saltMax)) ||
  (decide (outBase ≤ a) && decide (a < outBase + p.outMax)) ||
  (decide (padBase ≤ a) && decide (a < padBase + p.padMax)) ||
  (decide (mBase ≤ a) && decide (a < mBase + 96 * p.mBlocks))

/-- What a mapped, aligned address names. -/
inductive Loc where
  | reg (r : HostReg)
  | sponge (i : Fin 16)
  | storage (a : Nat)
  deriving DecidableEq, Repr

/-- What an address names; `none` is unmapped (R37, R43). -/
def locOf? (p : Params) (a : Nat) : Option Loc :=
  match regMap.lookup a with
  | some r => some (.reg r)
  | none =>
    if h : sBase ≤ a ∧ a < sBase + 128 then
      some (.sponge ⟨(a - sBase) / 8, by
        rw [Nat.div_lt_iff_lt_mul (by decide)]
        omega⟩)
    else if memMapped p a then some (.storage a)
    else none

/-- What a host transaction addresses; `none` ends it in ERROR: a width other than 64 bits, an address that is not a
multiple of 8, an unmapped address (R41, R43). -/
def target? (p : Params) (addr : Addr) (bytes : Nat) : Option Loc :=
  if bytes = 8 ∧ addr.toNat % 8 = 0 then locOf? p addr.toNat else none

/-! ### Reads and writes while no command runs (R38, R39, R42) -/

/-- The value a read of a register returns; `CMD` reads 0 (R38, R42). -/
def readReg (r : HostReg) (s : State) : Word :=
  match r with
  | .cmd => 0
  | .status => statusWord s
  | .outLen => s.outLen
  | .pwdLen => s.pwdLen
  | .saltLen => s.saltLen
  | .timeCost => s.timeCost
  | .nRows => s.nRows
  | .nCols => s.nCols
  | .hdrLen => s.hdrLen
  | .nBlk => s.nBlk
  | .row => s.row
  | .prev => s.prev
  | .rowa => s.rowa
  | .stride => s.stride
  | .window => s.window
  | .gap => s.gap
  | .tau => s.tau

/-- A write to a register other than `CMD`: the seven the host may write take the value, a write to a read-only one
is ignored (R16, R17, R39, R42). -/
def writeReg (r : HostReg) (v : Word) (s : State) : State :=
  match r with
  | .outLen => { s with outLen := v }
  | .pwdLen => { s with pwdLen := v }
  | .saltLen => { s with saltLen := v }
  | .timeCost => { s with timeCost := v }
  | .nRows => { s with nRows := v }
  | .nCols => { s with nCols := v }
  | .hdrLen => { s with hdrLen := v }
  | .cmd | .status | .nBlk | .row | .prev | .rowa | .stride | .window | .gap | .tau => s

/-- Byte `i` of the word at `a` as a host read returns it: a byte that holds no value returns any value, byte `i` of
the free value (R27, R38). -/
def hostByte (m : Memory) (a : Nat) (free : Word) (i : Nat) : Byte :=
  match memGet? m (a + i) with
  | some b => b
  | none => byteOf free i

/-- The word a host read of storage returns, `free` standing for what it does not hold (R38). -/
def hostWord (m : Memory) (a : Nat) (free : Word) : Word :=
  wordLE [hostByte m a free 0, hostByte m a free 1, hostByte m a free 2, hostByte m a free 3,
          hostByte m a free 4, hostByte m a free 5, hostByte m a free 6, hostByte m a free 7]

/-- All eight bytes at `a` hold a value. -/
def wordHeld (m : Memory) (a : Nat) : Bool :=
  match readBytes m a 8 with
  | .ok _ => true
  | .error _ => false

/-- The transaction's response. -/
def respond (r : Response) (s : State) : State := { s with resp := some r }

/-- The next free value is drawn. -/
def drawFree (s : State) : State := { s with freeCount := s.freeCount + 1 }

/-- A host read while no command runs (R38). A read of storage that does not hold all eight bytes draws a free value;
no read changes anything else but the response. -/
def hostRead (p : Params) (addr : Addr) (bytes : Nat) (s : State) : State :=
  match target? p addr bytes with
  | none => respond .error s
  | some (.reg r) => respond (.value (readReg r s)) s
  | some (.sponge i) => respond (.value s.S[i]) s
  | some (.storage a) =>
    respond (.value (hostWord s.mem a (Config.freeWord s.freeCount))) (if wordHeld s.mem a then s else drawFree s)

/-- A host write while no command runs, to a location other than `CMD` (R39, R42). -/
def hostWrite (l : Loc) (v : Word) (s : State) : State :=
  match l with
  | .reg r => writeReg r v s
  | .sponge i => { s with S := s.S.set i v }
  | .storage a => { s with mem := memWrite s.mem a (le64 v) }

/-! ### Commands (R61 to R63) -/

/-- What a command's checks and effect are, for the commands that start and then run. `CLR` and `SRST` run at once
and have no checks (R61). -/
def planOf (p : Params) (i : Instr) (s : State) : Plan :=
  match i with
  | .nop => planNop s
  | .clr => .ok (.ok (clearStatus s))
  | .srst => .ok (.ok (resetState s))
  | .qr q => planQr q s
  | .permR => planPermR s
  | .permF => planPermF s
  | .sinit => planSinit p s
  | .absf row col => planAbsf p row col s
  | .abss n => planAbss n s
  | .sqz => planSqz p s
  | .pad => planPad p s
  | .sqrow0 rout => planSqrow0 p rout s
  | .dpxrow1 rin rout => planDpxrow1 p rin rout s
  | .dpxsetup prev rowa rnew => planDpxsetup p prev rowa rnew s
  | .dpxwander prev rowa row => planDpxwander p prev rowa row s
  | .setup => planSetup p s
  | .wander => planWander p s
  | .derive => planDerive p s
  | .hpReset k => planHpReset k s
  | .hpUpdate k src => planHpUpdate k src s
  | .hpDigest k dst => planHpDigest p k dst s
  | .hstage k src dst => planHstage p k src dst s
  | .powhash => planPowhash p s

/-- `CLR` and `SRST` complete inside the `CMD` write and never show `BUSY` (R61, R63). -/
def runsAtOnce (i : Instr) : Bool :=
  match i with
  | .clr | .srst => true
  | _ => false

/-- The command would be accepted and start running: nothing runs, no error is pending, no check fails (R61). -/
def starts (p : Params) (i : Instr) (s : State) : Bool :=
  !busy s && !s.err.isSome && !runsAtOnce i &&
    match planOf p i s with
    | .ok _ => true
    | .error _ => false

/-- The outside world's next action arrives before a command that starts now completes (R63, 93 item U7). -/
def earlyNext (s : State) : Bool :=
  match s.port with
  | e :: _ => e.early
  | [] => false

/-- A `CMD` write of `v` while no command runs (R61). A word that is no command raises `ERR_ILLEGAL`, or is dropped
with `HAZ` when an error is pending. A command that starts while the outside world is about to act before it
completes is left running; every other command runs from acceptance to completion in this one step (R63). -/
def command (p : Params) (v : Word) (s : State) : Host.Outcome State Fault Refusal :=
  match decode v with
  | .error _ => .next (if s.err.isSome then setHaz s else raiseError .illegal s)
  | .ok i => if earlyNext s && starts p i s then .next (start i s) else exec i s

/-- The outside world acts while no command runs (R36 to R43, R61, R141). -/
def actIdle (p : Params) (act : PortAction) (s : State) : Host.Outcome State Fault Refusal :=
  match act with
  | .reset => .next (resetState s)
  | .read addr bytes => .next (hostRead p addr bytes s)
  | .write addr bytes v =>
    match target? p addr bytes with
    | none => .next (respond .error s)
    | some (.reg .cmd) => command p v (respond .okay s)
    | some l => .next (respond .okay (hostWrite l v s))

/-! ### While a command runs (R44) -/

/-- Any read but that of `STATUS` while a command runs: any value, OKAY, `HAZ <- 1`, and the run is marked (R44). -/
def hazRead (s : State) : State :=
  markRun (setHaz (drawFree (respond (.value (Config.freeWord s.freeCount)) s)))

/-- Any write while a command runs: dropped, OKAY, `HAZ <- 1`, and the run is marked (R44). -/
def hazWrite (s : State) : State := markRun (setHaz (respond .okay s))

/-- The outside world acts while a command runs: `STATUS` can be read, the reset input ends the command, every other
access sets `HAZ`, marks the run, and does nothing to the command (R44, R62, R141). A transaction of a wrong width or
alignment or to an unmapped address ends in ERROR and changes nothing, as it does while none runs (R41, R43, 93 item
U15; that they come before R44 is DEDUCED, log entry 3). -/
def actBusy (p : Params) (act : PortAction) (s : State) : State :=
  match act with
  | .reset => resetState s
  | .read addr bytes =>
    match target? p addr bytes with
    | some (.reg .status) => respond (.value (statusWord s)) s
    | some _ => hazRead s
    | none => respond .error s
  | .write addr bytes _ =>
    match target? p addr bytes with
    | some _ => hazWrite s
    | none => respond .error s

/-- The running command completes: all its writes become visible at once (R63). -/
def finishRunning (i : Instr) (s : State) : Host.Outcome State Fault Refusal := exec i { s with running := none }

end Sys2Proof.Machine
end

