-- ==== Sys2Proof/Machine/Step.lean ====
section
/-! DEFINITION. One step of the machine: the running command completes, or the outside world's next action takes
effect, or, with nothing pending, the CORE waits (spec 20_memory.md R49; 30_encoding.md R61 to R63;
70_reset_and_hazards.md R141). -/

namespace Sys2Proof.Machine

/-- One step. The CORE has no program counter: its commands come from the port. An early action is served while a
command runs; otherwise the running command completes first. -/
def step (s : State) : Host.Outcome State Fault Refusal :=
  match s.running, s.port with
  | none, [] => .next s
  | none, e :: rest => actIdle Config.params e.act { s with port := rest }
  | some i, [] => finishRunning i s
  | some i, e :: rest =>
    if e.early then .next (actBusy Config.params e.act { s with port := rest }) else finishRunning i s

/-- The `CMD` write that offers the `nbits`-bit word `w`, every bit above `nbits` zero (R22). -/
def cmdWrite (nbits w : Nat) : PortEvent :=
  { early := false, act := .write 0x0000#32 8 (BitVec.ofNat 64 (w % 2 ^ nbits)) }

/-- The state with a `CMD` write of the word as the outside world's very next action: no command is running, and none
of the actions that follow is an early one (those belonged to a command before this one), so that the next step runs
the word's command from acceptance to completion. -/
def State.withFetchWord (s : State) (nbits w : Nat) : State :=
  { s with running := none, port := cmdWrite nbits w :: s.port.dropWhile (fun e => e.early) }

end Sys2Proof.Machine
end

