-- ==== Sys2Proof/Safety.lean ====
section
/-! DEFINITION. The words in which claims speak of the machine: when it is ready for a command, what its storage holds,
what a run leaves alone, and the invariants that rule out states no run reaches. -/

namespace Sys2Proof.Machine

/-- No command is running and no error is pending: a `CMD` write is looked at (R61). -/
def Ready (s : State) : Prop := s.running = none ∧ s.err = none

/-- All `n` bytes from host byte address `a` hold a value (R27). -/
def Held (m : Memory) (a n : Nat) : Prop := ∀ k, k < n → (memGet? m (a + k)).isSome = true

/-- Every byte outside the `n` bytes from `a` is as it was. -/
def SameOutside (m m' : Memory) (a n : Nat) : Prop := ∀ b, (b < a ∨ a + n ≤ b) → memGet? m' b = memGet? m b

/-- The run so far kept the port protocol: the host made no access that sets `HAZ` while a command ran. The spec has a
model accept only such a run as an execution of this hardware (R44, 93 item U3, log entry 6). -/
def OnProtocol (s : State) : Prop := s.offProtocol = false

/-- What the host's accesses can change while a command runs: `HAZ`, and the model's own fields of the port and the run
(R44). -/
structure HostSide where
  haz : Bool
  resp : Option Response
  port : List PortEvent
  freeCount : Nat
  offProtocol : Bool
  deriving DecidableEq, Repr

/-- The state with the host's side of it replaced. -/
def withHostSide (h : HostSide) (s : State) : State :=
  { s with haz := h.haz, resp := h.resp, port := h.port, freeCount := h.freeCount, offProtocol := h.offProtocol }

/-- The outcome with its next state, if it has one, replaced. -/
def onNext (f : State → State) : Host.Outcome State Fault Refusal → Host.Outcome State Fault Refusal
  | .next s => .next (f s)
  | .fault e => .fault e
  | .refused r => .refused r

/-- A safe step: it does not stop on a location that holds no value. -/
def StepsSafely (s : State) : Prop := ∃ t, step s = .next t

/-- The storage is in its canonical form, lists only addresses of the address map (R37), and `NBLK` counts safe blocks
that fit PADBUF (R88, R90). -/
def InvMemory (s : State) : Prop :=
  Memory.wf s.mem ∧ (∀ c ∈ s.mem, memMapped Config.params c.1 = true) ∧ 64 * s.nBlk.toNat ≤ Config.params.padMax

/-- The hidden sequencer fields are zero, and while a command runs `DONE` is 0 and the command is one that was accepted:
no error is pending and none of its checks fails (R19, R21, R61). -/
def InvControl (s : State) : Prop :=
  s.seq = SeqPos.rest ∧
  ∀ i, s.running = some i → s.done = false ∧ starts Config.params i { s with running := none } = true

/-- A word of the Memory Matrix holds a value or holds none: never some of its bytes only (R26, R27). -/
def InvWords (s : State) : Prop :=
  ∀ w, (∀ i, i < 8 → (memGet? s.mem (mBase + 8 * w + i)).isSome = true) ∨
       (∀ i, i < 8 → memGet? s.mem (mBase + 8 * w + i) = none)

end Sys2Proof.Machine
end

