-- ==== Sys2Proof/Certificates/Slice0/Obligations.lean ====
section
/-! DEFINITION. The statements for the provers. The definitions of `Sys2Proof.Claims` write the spec's formulas out once
more, independently of the machine's own operations, so that a statement says what the spec says. -/

namespace Sys2Proof.Claims

open Sys2Proof.Machine

/-! ### The permutation, as the spec prints it (R71 to R75) -/

/-- `S` as a function of the word index. -/
def words (S : Vector Word 16) : Fin 16 → Word := fun i => S[i]

/-- The eight assignments of `G(a, b, c, d)`, each on what the ones before it wrote (R71, R12). -/
def specG (a b c d : Fin 16) (S0 : Fin 16 → Word) : Fin 16 → Word :=
  let S1 := Function.update S0 a (S0 a + S0 b)
  let S2 := Function.update S1 d ((S1 d ^^^ S1 a).rotateRight 32)
  let S3 := Function.update S2 c (S2 c + S2 d)
  let S4 := Function.update S3 b ((S3 b ^^^ S3 c).rotateRight 24)
  let S5 := Function.update S4 a (S4 a + S4 b)
  let S6 := Function.update S5 d ((S5 d ^^^ S5 a).rotateRight 16)
  let S7 := Function.update S6 c (S6 c + S6 d)
  Function.update S7 b ((S7 b ^^^ S7 c).rotateRight 63)

/-- The eight tuples of `QTAB` in order (R72). -/
def specTuples : List (Fin 16 × Fin 16 × Fin 16 × Fin 16) :=
  [(0, 4, 8, 12), (1, 5, 9, 13), (2, 6, 10, 14), (3, 7, 11, 15),
   (0, 5, 10, 15), (1, 6, 11, 12), (2, 7, 8, 13), (3, 4, 9, 14)]

/-- One round: `G` on each tuple, in order (R73). -/
def specRound (S : Fin 16 → Word) : Fin 16 → Word :=
  specTuples.foldl (fun S t => specG t.1 t.2.1 t.2.2.1 t.2.2.2 S) S

/-- `n` rounds. -/
def specRounds (n : Nat) (S : Fin 16 → Word) : Fin 16 → Word := specRound^[n] S

/-- The first `n` words of `S` XORed with `n` words (R82, R83). -/
def xorRate {n : Nat} (ws : Fin n → Word) (S : Fin 16 → Word) : Fin 16 → Word :=
  fun i => if h : i.val < n then S i ^^^ ws ⟨i.val, h⟩ else S i

/-- Word `k` of the rate part. -/
def rateWord (S : Fin 16 → Word) (k : Fin 12) : Word := S (Fin.castLE (by decide) k)

/-- Word `(k + 11) mod 12` of the rate part (R93). -/
def rotatedWord (S : Fin 16 → Word) (k : Fin 12) : Word := rateWord S (k + 11)

/-! ### Bytes, words and blocks in storage -/

/-- Byte `i` of a word: `v[8i+7:8i]` (R11). -/
def wordByte (v : Word) (i : Nat) : Byte := v.extractLsb' (8 * i) 8

/-- The word at byte address `a` is `v`, little-endian (R40). -/
def HoldsWord (m : Memory) (a : Nat) (v : Word) : Prop :=
  ∀ i, i < 8 → memGet? m (a + i) = some (wordByte v i)

/-- The block `M[r][c]` of a matrix with `C` columns is `blk` (R47). -/
def HoldsBlock (m : Memory) (C r c : Nat) (blk : Fin 12 → Word) : Prop :=
  ∀ k : Fin 12, HoldsWord m (0x10000 + 96 * (r * C + c) + 8 * k.val) (blk k)

/-- Row `r` of a matrix with `C` columns is `X`, column by column. -/
def HoldsRow (m : Memory) (C r : Nat) (X : Nat → Fin 12 → Word) : Prop :=
  ∀ c, c < C → HoldsBlock m C r c (X c)

/-- The bytes at `a` are `bs`. -/
def HoldsBytes (m : Memory) (a : Nat) (bs : List Byte) : Prop :=
  ∀ k, k < bs.length → memGet? m (a + k) = bs[k]?

/-- The first byte of row `r` of a matrix with `C` columns (R47). -/
def rowBase (C r : Nat) : Nat := 0x10000 + 96 * (r * C)

/-! ### Acceptance and completion -/

/-- What completion adds to a command's own effect: `DONE` is 1 and the hidden sequencer fields are zero (R63). -/
def finished (s : State) : State := { s with done := true, seq := SeqPos.rest }

/-- What an error leaves: `ERR` is the code, `DONE` is 1 (R131). -/
def refusedWith (e : ErrCode) (s : State) : State := { s with err := some e, done := true }

/-- `CheckGeom(NROWS, NCOLS)` passes (R102). -/
def Geometry (s : State) : Prop :=
  0 < s.nRows.toInt ∧ 0 < s.nCols.toInt ∧ s.nRows.toNat * s.nCols.toNat ≤ Config.params.mBlocks

/-- `CheckParams(t, NROWS, NCOLS)` passes (R101). -/
def Parameters (t : Word) (s : State) : Prop :=
  0 < t.toInt ∧ Geometry s ∧ ∃ k, 0 < k ∧ s.nRows.toNat = 2 ^ k

/-- The number of safe blocks of the padded input (R90). -/
def blocksOf (s : State) : Nat := (s.pwdLen.toNat + s.saltLen.toNat + 48) / 64 + 1

/-- The capacity checks of `PAD` pass (R103). -/
def PadFits (s : State) : Prop :=
  s.pwdLen.toNat ≤ Config.params.pwdMax ∧ s.saltLen.toNat ≤ Config.params.saltMax ∧
  64 * blocksOf s ≤ Config.params.padMax

/-- PWD and SALT hold a password and a salt of the lengths the registers give (R24). -/
def InputsHeld (s : State) : Prop :=
  Held s.mem 0x1000 s.pwdLen.toNat ∧ Held s.mem 0x2000 s.saltLen.toNat

/-- A list of commands, each issued on the state the one before it left. -/
def execAll : List Instr → State → Host.Outcome State Fault Refusal
  | [], s => .next s
  | i :: is, s =>
    match exec i s with
    | .next s' => execAll is s'
    | .fault f => .fault f
    | .refused r => .refused r

/-! ### Duplexing (R92 to R94) -/

/-- The state before column `c` of a row operation that absorbs the blocks `absorbed 0`, `absorbed 1`, … -/
def duplexState (absorbed : Nat → Fin 12 → Word) (S : Fin 16 → Word) : Nat → Fin 16 → Word
  | 0 => S
  | c + 1 => specRound (xorRate (absorbed c) (duplexState absorbed S c))

/-! ### Padding (R90) -/

/-- `LE64(v)` (R11). -/
def leBytes (v : Word) : List Byte := List.ofFn fun i : Fin 8 => wordByte v i.val

/-- The message before zero padding (R90). -/
def message (outLen : Word) (pwd salt : List Byte) (t R C : Word) : List Byte :=
  pwd ++ salt ++ leBytes outLen ++ leBytes (BitVec.ofNat 64 pwd.length) ++ leBytes (BitVec.ofNat 64 salt.length) ++
    leBytes t ++ leBytes R ++ leBytes C ++ [0x80#8]

/-- Byte `i` of the padded input of `n` safe blocks (R90). -/
def paddedByte (m : List Byte) (n i : Nat) : Byte :=
  (m[i]?.getD 0#8) ^^^ (if i = 64 * n - 1 then 0x01#8 else 0#8)

/-! ### Setup and Wandering (R96, R98) -/

/-- The variables of the Setup schedule. -/
structure Schedule where
  row : Nat
  prev : Nat
  rowa : Nat
  stride : Int
  window : Nat
  gap : Int

/-- The schedule after `n` rows have been built by the loop (R96). -/
def schedule : Nat → Schedule
  | 0 => { row := 2, prev := 1, rowa := 0, stride := 1, window := 2, gap := 1 }
  | n + 1 =>
    let c := schedule n
    let rowa := (((c.rowa : Int) + c.stride) % (c.window : Int)).toNat
    { row := c.row + 1
      prev := c.row
      rowa := rowa
      stride := if rowa = 0 then (c.window : Int) + c.gap else c.stride
      window := if rowa = 0 then 2 * c.window else c.window
      gap := if rowa = 0 then -c.gap else c.gap }

/-- The unit commands that build rows 0 to `R - 1` (R96). -/
def setupCommands (R : Nat) : List Instr :=
  .sqrow0 0 :: .dpxrow1 0 1 ::
    (List.range (R - 2)).map (fun n => .dpxsetup (schedule n).prev (schedule n).rowa (schedule n).row)

/-- The rows pass `tau` of Wandering visits, in order: `0`, `STEP`, `2 * STEP`, … modulo `R`, until 0 comes up again
(R98, R147). -/
def passRows (R tau : Nat) : List Nat :=
  if tau % 2 = 0 then (List.range R).map (fun j => (R - j) % R)
  else if R = 2 then [0]
  else (List.range R).map (fun j => j * (R / 2 - 1) % R)

/-- The rows passes 1 to `T` visit, in order. -/
def walkRows (R T : Nat) : List Nat := (List.range T).flatMap (fun n => passRows R (n + 1))

/-- The host walks by hand: at each row it reads `S[0]`, takes row* as its remainder by `R`, and issues `DPXWANDER`
(R98, R107). With the state it returns the last row* and the last row visited. -/
def walkByHand (R : Nat) : List Nat → Nat → Nat → State → Host.Outcome (State × Nat × Nat) Fault Refusal
  | [], rowa, prev, s => .next (s, rowa, prev)
  | r :: rs, _, prev, s =>
    match exec (.dpxwander prev (s.S[0].toNat % R) r) s with
    | .next s' => walkByHand R rs (s.S[0].toNat % R) r s'
    | .fault f => .fault f
    | .refused e => .refused e

/-! ### The address map (R37) -/

/-- The address is in the address map. -/
def Mapped (a : Nat) : Prop :=
  a < 0x88 ∨ (0x100 ≤ a ∧ a < 0x1D0) ∨ (0x200 ≤ a ∧ a < 0x240) ∨
  (0x1000 ≤ a ∧ a < 0x1000 + Config.params.pwdMax) ∨ (0x2000 ≤ a ∧ a < 0x2000 + Config.params.saltMax) ∨
  (0x3000 ≤ a ∧ a < 0x3000 + Config.params.outMax) ∨ (0x4000 ≤ a ∧ a < 0x4000 + Config.params.padMax) ∨
  (0x10000 ≤ a ∧ a < 0x10000 + 96 * Config.params.mBlocks)

/-- The address is one a host write stores to: a mapped one that is not `CMD`, `STATUS` or a read-only register
(R37). -/
def Writable (a : Nat) : Prop := Mapped a ∧ 0x10 ≤ a ∧ ¬ (0x48 ≤ a ∧ a < 0x88)

/-- The address is in storage: HDR, BUFA, BUFB, PWD, SALT, OUT, PADBUF or M (R37). -/
def Storage (a : Nat) : Prop := Mapped a ∧ 0x180 ≤ a

/-- The value of each register of the address map; `CMD` reads 0 (R37, R38, R42). -/
def registerValue (s : State) (a : Nat) : Option Word :=
  [(0x00, 0), (0x08, statusWord s), (0x10, s.outLen), (0x18, s.pwdLen), (0x20, s.saltLen), (0x28, s.timeCost),
   (0x30, s.nRows), (0x38, s.nCols), (0x40, s.hdrLen), (0x48, s.nBlk), (0x50, s.row), (0x58, s.prev), (0x60, s.rowa),
   (0x68, s.stride), (0x70, s.window), (0x78, s.gap), (0x80, s.tau)].lookup a

/-- The state with one of the seven registers a host may write set to `v` (R16, R17, R37, R39). -/
def withRegister (a : Nat) (v : Word) (s : State) : Option State :=
  [(0x10, { s with outLen := v }), (0x18, { s with pwdLen := v }), (0x20, { s with saltLen := v }),
   (0x28, { s with timeCost := v }), (0x30, { s with nRows := v }), (0x38, { s with nCols := v }),
   (0x40, { s with hdrLen := v })].lookup a

/-- `a` is the first of the `n` bytes from `base` that holds no value. -/
def FirstMissing (m : Memory) (base n a : Nat) : Prop :=
  base ≤ a ∧ a < base + n ∧ memGet? m a = none ∧ Held m base (a - base)

/-- The rest of the pending actions does not begin with one that arrives before a command completes. -/
def NotEarly (rest : List PortEvent) : Prop := ∀ e, rest.head? = some e → e.early = false

/-- The command is one of the two that run at once (R61). -/
def AtOnce (i : Instr) : Prop := i = .clr ∨ i = .srst

/-- Which row of the opcode map a command belongs to (R58). -/
def rowOf : Instr → Nat
  | .nop => 0
  | .clr => 1
  | .srst => 2
  | .qr _ => 3
  | .permR => 4
  | .permF => 5
  | .sinit => 6
  | .absf _ _ => 7
  | .abss _ => 8
  | .sqz => 9
  | .pad => 10
  | .sqrow0 _ => 11
  | .dpxrow1 _ _ => 12
  | .dpxsetup _ _ _ => 13
  | .dpxwander _ _ _ => 14
  | .setup => 15
  | .wander => 16
  | .derive => 17
  | .hpReset _ => 18
  | .hpUpdate _ _ => 19
  | .hpDigest _ _ => 20
  | .hstage _ _ _ => 21
  | .powhash => 22

/-- The `match` and `mask` columns of the opcode map, in its order (R58). -/
def specRows : List (BitVec 32 × BitVec 32) :=
  [(0x00000000, 0xFFFFFFFF), (0x01000000, 0xFFFFFFFF), (0x02000000, 0xFFFFFFFF), (0x10000000, 0xFFFFFFF8),
   (0x11000000, 0xFFFFFFFF), (0x12000000, 0xFFFFFFFF), (0x20000000, 0xFFFFFFFF), (0x21000000, 0xFFFF0000),
   (0x22000000, 0xFFFF0000), (0x23000000, 0xFFFFFFFF), (0x30000000, 0xFFFFFFFF), (0x31000000, 0xFFFFFF00)] ++
  [(0x32000000, 0xFFFF0000), (0x33000000, 0xFF000000), (0x34000000, 0xFF000000), (0x35000000, 0xFFFFFFFF),
   (0x36000000, 0xFFFFFFFF), (0x37000000, 0xFFFFFFFF), (0x40000000, 0xFFFFFF00), (0x41000000, 0xFFFF0000),
   (0x42000000, 0xFFFF0000), (0x43000000, 0xFF000000), (0x4F000000, 0xFFFFFFFF)]

/-- The eight quarter-rounds in order but with `d` moved to just before `c`. -/
def movedBefore (d c : Fin 8) : List (Fin 8) :=
  (List.finRange 8).filter (fun q => q < c) ++ d :: (List.finRange 8).filter (fun q => c ≤ q ∧ q ≠ d)

/-- The byte string a source selector names: its base and size (R60). -/
def SrcRange (src base size : Nat) : Prop :=
  (src = 0 ∧ base = 0x180 ∧ size = 80) ∨ (src = 1 ∧ base = 0x200 ∧ size = 32) ∨ (src = 2 ∧ base = 0x220 ∧ size = 32)

/-- The base of the 32 bytes a destination selector names (R60). -/
def DstBase (dst base : Nat) : Prop := (dst = 1 ∧ base = 0x200) ∨ (dst = 2 ∧ base = 0x220)

/-- `Hk(m)` (R8). -/
def hashed (k : Fin 5) (m : List Byte) : List Byte := (Config.params.hash k m).toList

end Sys2Proof.Claims

open Sys2Proof Sys2Proof.Machine Sys2Proof.Claims

/-! ## Encoding -/

/-- Decoding the word of a well-formed command gives the command back, for every command and every operand value its
fields admit (R56 to R58, R60). -/
def Obligations.DecodeOfEncode : Prop :=
  ∀ i : Instr, i.wf = true → decode (encodeCmd i) = .ok i

/-- A value that decodes is the encoding of a well-formed command: no bit of a `CMD` write is dropped (R57, R59). -/
def Obligations.EncodeOfDecode : Prop :=
  ∀ (v : Word) (i : Instr), decode v = .ok i → i.wf = true ∧ encodeCmd i = v

/-- R58: a word is the command of row `j` exactly when `w & mask = match` for that row. -/
def Obligations.WordIsTheRowItMatches : Prop :=
  ∀ (w : BitVec 32) (j : Nat) (m k : BitVec 32), specRows[j]? = some (m, k) →
    ((∃ i, decodeWord w = .ok i ∧ rowOf i = j) ↔ w &&& k = m)

/-- The worked encodings of R67. -/
def Obligations.WorkedEncodingsDecode : Prop :=
  decodeWord 0x00000000#32 = .ok .nop ∧ decodeWord 0x01000000#32 = .ok .clr ∧
  decodeWord 0x10000005#32 = .ok (.qr 5) ∧ decodeWord 0x12000000#32 = .ok .permF ∧
  decodeWord 0x21000300#32 = .ok (.absf 3 0) ∧ decodeWord 0x22000001#32 = .ok (.abss 1) ∧
  decodeWord 0x31000000#32 = .ok (.sqrow0 0) ∧ decodeWord 0x32000001#32 = .ok (.dpxrow1 0 1) ∧
  decodeWord 0x33010002#32 = .ok (.dpxsetup 1 0 2) ∧ decodeWord 0x34030200#32 = .ok (.dpxwander 3 2 0) ∧
  decodeWord 0x37000000#32 = .ok .derive ∧ decodeWord 0x41000100#32 = .ok (.hpUpdate 1 0) ∧
  decodeWord 0x42000101#32 = .ok (.hpDigest 1 1) ∧ decodeWord 0x43030201#32 = .ok (.hstage 3 2 1) ∧
  decodeWord 0x4F000000#32 = .ok .powhash ∧
  decodeWord 0x10000008#32 = .error .reservedField ∧ decodeWord 0x38000000#32 = .error .unassignedOpcode ∧
  decodeWord 0x12000001#32 = .error .reservedField

/-! ## The step -/

/-- A `CMD` write whose word decodes to a command runs that command: the step is `exec` of it on the state with the
write taken from the port and OKAY as its response (that the write is answered OKAY whatever becomes of its command is the
model's reading: log entry 15). This holds whatever follows for a command that runs or ends inside the write (`CLR`,
`SRST`, a failed check, a dropped command: `starts` is false, R61, R63), and for a command that starts unless the action
after it arrives before it completes, which is the subject of `BusyWindowDoesNotChangeTheResult`. -/
def Obligations.StepRunsTheDecodedCommand : Prop :=
  ∀ (s : State) (e : Bool) (v : Word) (rest : List PortEvent) (i : Instr),
    s.running = none → s.port = ⟨e, .write 0 8 v⟩ :: rest → (NotEarly rest ∨ starts Config.params i s = false) →
    decode v = .ok i →
    step s = exec i { s with port := rest, resp := some .okay }

/-- R59, R61: a `CMD` write that is no command raises `ERR_ILLEGAL` and changes no state except `STATUS`; with an error
pending it is dropped and sets `HAZ`. That the write is answered OKAY in both cases is the model's reading: log entry
15. -/
def Obligations.IllegalWordRaisesIllegal : Prop :=
  ∀ (s : State) (e : Bool) (v : Word) (rest : List PortEvent) (d : DecodeError),
    s.running = none → s.port = ⟨e, .write 0 8 v⟩ :: rest → decode v = .error d →
    step s = .next (if s.err = none
      then { s with port := rest, resp := some .okay, err := some .illegal, done := true }
      else { s with port := rest, resp := some .okay, haz := true })

/-- R44, R62, R63 (that the host acts while a command runs is the model's `early` mark: log entry 7): what the host does
while a command runs, short of reset, does not change the command's result. `starts` says that the command is accepted
(R61), and `exec i s` is the atomic run without the accesses.
1. A command that starts before an early action is left running with `DONE = 0`, whatever that action is.
2. With `n + 1` `STATUS` reads while it runs, each returns `BUSY = 1, DONE = 0`, and the last step is the whole command.
3. Once no early action is pending, the step is the whole command on the state as it is then.
4. With any early actions but a reset, those that set `HAZ` among them, the run ends as the atomic run does, but for what
the host's accesses themselves leave: a `HAZ` that was 1 stays 1.
5. The outcome of a command that is looked at does not depend on `HAZ`, `DONE` or the model's fields of the port and the
run. -/
def Obligations.BusyWindowDoesNotChangeTheResult : Prop :=
  (∀ (s : State) (i : Instr) (e : Bool) (v : Word) (a : PortEvent) (rest : List PortEvent),
    decode v = .ok i → starts Config.params i s = true → s.port = ⟨e, .write 0 8 v⟩ :: a :: rest → a.early = true →
    step s = .next { s with running := some i, done := false, port := a :: rest, resp := some .okay }) ∧
  (∀ (s : State) (i : Instr) (e : Bool) (v : Word) (n : Nat) (rest : List PortEvent),
    decode v = .ok i → starts Config.params i s = true → NotEarly rest →
    s.port = ⟨e, .write 0 8 v⟩ :: (List.replicate (n + 1) ⟨true, .read 8 8⟩ ++ rest) →
    (∀ k, k ≤ n → Host.Core.run core (k + 2) s = .next { s with
      running := some i, done := false, port := List.replicate (n - k) ⟨true, .read 8 8⟩ ++ rest,
      resp := some (.value (if s.haz then 5 else 1)) }) ∧
    Host.Core.run core (n + 3) s =
      exec i { s with port := rest, resp := some (.value (if s.haz then 5 else 1)) }) ∧
  (∀ (s : State) (i : Instr), s.running = some i → NotEarly s.port → step s = exec i { s with running := none }) ∧
  (∀ (s : State) (i : Instr) (e : Bool) (v : Word) (es rest : List PortEvent),
    decode v = .ok i → starts Config.params i s = true → NotEarly rest →
    es ≠ [] → (∀ a ∈ es, a.early = true ∧ a.act ≠ .reset) → s.port = ⟨e, .write 0 8 v⟩ :: (es ++ rest) →
    ∃ h : HostSide, h.port = rest ∧ (s.haz = true → h.haz = true) ∧
      Host.Core.run core (es.length + 2) s = onNext (withHostSide h) (exec i s)) ∧
  (∀ (s : State) (i : Instr) (h : HostSide) (d : Bool), Ready s → ¬ AtOnce i →
    exec i (withHostSide h { s with done := d }) = onNext (withHostSide h) (exec i s))

/-- R44: while a command runs, a read of `STATUS` returns it, and any other access at a mapped, aligned 64-bit location
is answered OKAY, sets `HAZ`, marks the run as refused, and changes nothing else: the command is not disturbed, a write is
dropped. That the model goes on with the hardware's effect, and how it marks the run that 93 item U3 refuses, is its
choice: log entry 6. The mark is never cleared, and a step that sets it is the step of such an access. -/
def Obligations.BusyAccessOnlySetsHazard : Prop :=
  (∀ (s : State) (i : Instr) (addr : Addr) (v : Word) (rest : List PortEvent),
    s.running = some i → Mapped addr.toNat → addr.toNat % 8 = 0 →
    (s.port = ⟨true, .read 8 8⟩ :: rest →
      step s = .next { s with port := rest, resp := some (.value (statusWord s)) }) ∧
    (s.port = ⟨true, .read addr 8⟩ :: rest → addr ≠ 8 →
      ∃ x n, step s = .next
        { s with port := rest, resp := some (.value x), haz := true, freeCount := n, offProtocol := true }) ∧
    (s.port = ⟨true, .write addr 8 v⟩ :: rest →
      step s = .next { s with port := rest, resp := some .okay, haz := true, offProtocol := true })) ∧
  (∀ s t : State, step s = .next t →
    (s.offProtocol = true → t.offProtocol = true) ∧
    (t.offProtocol = true → s.offProtocol = true ∨
      (s.running ≠ none ∧ ∃ (addr : Addr) (v : Word) (rest : List PortEvent), Mapped addr.toNat ∧ addr.toNat % 8 = 0 ∧
        ((s.port = ⟨true, .read addr 8⟩ :: rest ∧ addr ≠ 8) ∨ s.port = ⟨true, .write addr 8 v⟩ :: rest))))

/-! ## Acceptance, errors, completion -/

/-- R61, R132: while `ERR` is not 0 every `CMD` write other than `CLR` and `SRST` is dropped and sets `HAZ`. That the
dropped write is answered OKAY is the model's reading: log entry 15. -/
def Obligations.PendingErrorDropsCommands : Prop :=
  ∀ (s : State) (e : Bool) (v : Word) (rest : List PortEvent),
    s.running = none → s.err ≠ none → s.port = ⟨e, .write 0 8 v⟩ :: rest →
    v ≠ 0x01000000 → v ≠ 0x02000000 →
    step s = .next { s with port := rest, resp := some .okay, haz := true }

/-- R126, R131: a refused command leaves the state before it, but for `ERR` and `DONE`. -/
def Obligations.RefusedCommandChangesOnlyStatus : Prop :=
  ∀ (i : Instr) (s t : State), Ready s → exec i s = .next t → t.err ≠ none →
    t = { s with err := t.err, done := true }

/-- R21, R63: a command other than `CLR` and `SRST` that is looked at ends with `DONE = 1`, `BUSY = 0` and `HAZ`
unchanged. -/
def Obligations.LookedAtCommandEndsDone : Prop :=
  ∀ (i : Instr) (s t : State), Ready s → ¬ AtOnce i → exec i s = .next t →
    t.done = true ∧ t.running = none ∧ t.haz = s.haz

/-- R27: a command stops only at a location that held no value when it was issued; and a command that reads one source,
accepted while that source lacks a byte, stops, at the first such byte (`ABSF`, `ABSS`, `HP.UPDATE`, `HSTAGE`, `PAD`,
`DERIVE`, `POWHASH`, `DPXROW1`). That such a read stops the model is 93 item U1, and that the fault names the first byte
without value is the model's choice: log entry 4. -/
def Obligations.FaultNamesAnUnwrittenLocation : Prop :=
  (∀ (i : Instr) (s : State) (f : Fault), exec i s = .fault f → ∃ a, f = .noValue a ∧ memGet? s.mem a = none) ∧
  (∀ (s : State) (a : Nat), Ready s →
    (∀ row col, Geometry s → row < s.nRows.toNat → col < s.nCols.toNat →
      FirstMissing s.mem (0x10000 + 96 * (row * s.nCols.toNat + col)) 96 a →
      exec (.absf row col) s = .fault (.noValue a)) ∧
    (∀ n, n < s.nBlk.toNat → FirstMissing s.mem (0x4000 + 64 * n) 64 a → exec (.abss n) s = .fault (.noValue a)) ∧
    (∀ (u : Fin 5) (src base size : Nat) (fed : List Byte), SrcRange src base size → (src = 0 → s.hdrLen = 80) →
      s.acc[u] = some fed → FirstMissing s.mem base size a →
      exec (.hpUpdate (u.val + 1) src) s = .fault (.noValue a)) ∧
    (∀ (u : Fin 5) (src base size dst dbase : Nat), SrcRange src base size → DstBase dst dbase → src ≠ dst →
      (src = 0 → s.hdrLen = 80) → FirstMissing s.mem base size a →
      exec (.hstage (u.val + 1) src dst) s = .fault (.noValue a)) ∧
    (PadFits s →
      (FirstMissing s.mem 0x1000 s.pwdLen.toNat a ∨
        (Held s.mem 0x1000 s.pwdLen.toNat ∧ FirstMissing s.mem 0x2000 s.saltLen.toNat a)) →
      exec .pad s = .fault (.noValue a) ∧
      (Parameters s.timeCost s → s.outLen.toNat ≤ Config.params.outMax → exec .derive s = .fault (.noValue a))) ∧
    (s.hdrLen = 80 → FirstMissing s.mem 0x180 80 a → exec .powhash s = .fault (.noValue a)) ∧
    (∀ rin rout, Geometry s → rin < s.nRows.toNat → rout < s.nRows.toNat → rin ≠ rout →
      FirstMissing s.mem (rowBase s.nCols.toNat rin) (96 * s.nCols.toNat) a →
      exec (.dpxrow1 rin rout) s = .fault (.noValue a)))

/-- R21: `BUSY` is bit 0, `DONE` bit 1, `HAZ` bit 2, `ERR` bits 15:8 with the codes of R127, every other bit reads 0. -/
def Obligations.StatusFieldsReadAsR21Says : Prop :=
  ∀ s : State,
    (statusWord s).getLsbD 0 = s.running.isSome ∧ (statusWord s).getLsbD 1 = s.done ∧
    (statusWord s).getLsbD 2 = s.haz ∧
    (statusWord s).extractLsb' 8 8 =
      (match s.err with
      | none => 0
      | some .illegal => 1
      | some .hdrLen => 3
      | some .param => 4
      | some .nRows => 5
      | some .capacity => 6
      | some .operand => 7
      | some .hpSeq => 8) ∧
    (∀ j, (3 ≤ j ∧ j < 8) ∨ 16 ≤ j → (statusWord s).getLsbD j = false)

/-- R102, R129: the row commands and `ABSF` report the first of their checks that fails: `ERR_PARAM`, then
`ERR_CAPACITY`, then `ERR_OPERAND`. -/
def Obligations.GeometryErrorsInOrder : Prop :=
  ∀ (s : State) (i : Instr) (operandsOk : Prop), Ready s →
    ((∃ row col, i = .absf row col ∧
        (operandsOk ↔ row < s.nRows.toNat ∧ col < s.nCols.toNat)) ∨
     (∃ r, i = .sqrow0 r ∧ (operandsOk ↔ r < s.nRows.toNat)) ∨
     (∃ a b, i = .dpxrow1 a b ∧ (operandsOk ↔ a < s.nRows.toNat ∧ b < s.nRows.toNat ∧ a ≠ b)) ∨
     (∃ a b c, i = .dpxsetup a b c ∧ (operandsOk ↔
        a < s.nRows.toNat ∧ b < s.nRows.toNat ∧ c < s.nRows.toNat ∧ a ≠ b ∧ a ≠ c ∧ b ≠ c)) ∨
     (∃ a b c, i = .dpxwander a b c ∧ (operandsOk ↔
        a < s.nRows.toNat ∧ b < s.nRows.toNat ∧ c < s.nRows.toNat))) →
    (¬ (0 < s.nRows.toInt ∧ 0 < s.nCols.toInt) → exec i s = .next (refusedWith .param s)) ∧
    (0 < s.nRows.toInt ∧ 0 < s.nCols.toInt → Config.params.mBlocks < s.nRows.toNat * s.nCols.toNat →
      exec i s = .next (refusedWith .capacity s)) ∧
    (Geometry s → ¬ operandsOk → exec i s = .next (refusedWith .operand s))

/-- R101, R129: `SETUP`, `WANDER` and `DERIVE` report the first check of `CheckParams` that fails: `ERR_PARAM`, then
`ERR_NROWS`, then `ERR_CAPACITY`. `SETUP` does not look at `TIMECOST`. -/
def Obligations.ParameterErrorsInOrder : Prop :=
  ∀ (s : State) (i : Instr) (t : Word), Ready s →
    ((i = .setup ∧ t = 1) ∨ (i = .wander ∧ t = s.timeCost) ∨ (i = .derive ∧ t = s.timeCost)) →
    (¬ (0 < t.toInt ∧ 0 < s.nRows.toInt ∧ 0 < s.nCols.toInt) → exec i s = .next (refusedWith .param s)) ∧
    (0 < t.toInt ∧ 0 < s.nRows.toInt ∧ 0 < s.nCols.toInt → (¬ ∃ k, 0 < k ∧ s.nRows.toNat = 2 ^ k) →
      exec i s = .next (refusedWith .nRows s)) ∧
    (0 < t.toInt ∧ 0 < s.nRows.toInt ∧ 0 < s.nCols.toInt → (∃ k, 0 < k ∧ s.nRows.toNat = 2 ^ k) →
      Config.params.mBlocks < s.nRows.toNat * s.nCols.toNat → exec i s = .next (refusedWith .capacity s))

/-- R88, R89, R103, R109, R110: the remaining argument errors of `ABSS`, `SQZ`, `PAD`, `WANDER` and `DERIVE`. -/
def Obligations.ArgumentErrorsOfTheOthers : Prop :=
  ∀ (s : State), Ready s →
    (∀ n, s.nBlk.toNat ≤ n → exec (.abss n) s = .next (refusedWith .operand s)) ∧
    (Config.params.outMax < s.outLen.toNat → exec .sqz s = .next (refusedWith .capacity s)) ∧
    (¬ PadFits s → exec .pad s = .next (refusedWith .capacity s)) ∧
    (Parameters s.timeCost s → s.nRows.toNat ≤ s.prev.toNat → exec .wander s = .next (refusedWith .operand s)) ∧
    (Parameters s.timeCost s → ¬ (PadFits s ∧ s.outLen.toNat ≤ Config.params.outMax) →
      exec .derive s = .next (refusedWith .capacity s))

/-- R113 to R116, R119: the errors of the adapter and chain commands, in their order. -/
def Obligations.ChainErrorsInOrder : Prop :=
  ∀ (s : State) (k src dst : Nat), Ready s →
    (¬ (1 ≤ k ∧ k ≤ 5) → exec (.hpReset k) s = .next (refusedWith .operand s)) ∧
    (¬ (1 ≤ k ∧ k ≤ 5 ∧ src ≤ 2) → exec (.hpUpdate k src) s = .next (refusedWith .operand s)) ∧
    (1 ≤ k ∧ k ≤ 5 → src = 0 → s.hdrLen ≠ 80 → exec (.hpUpdate k src) s = .next (refusedWith .hdrLen s)) ∧
    (∀ u : Fin 5, k = u.val + 1 → src ≤ 2 → (src = 0 → s.hdrLen = 80) → s.acc[u] = none →
      exec (.hpUpdate k src) s = .next (refusedWith .hpSeq s)) ∧
    (¬ (1 ≤ k ∧ k ≤ 5 ∧ 1 ≤ dst ∧ dst ≤ 2) → exec (.hpDigest k dst) s = .next (refusedWith .operand s)) ∧
    (∀ u : Fin 5, k = u.val + 1 → 1 ≤ dst ∧ dst ≤ 2 → s.acc[u] = none →
      exec (.hpDigest k dst) s = .next (refusedWith .hpSeq s)) ∧
    (¬ (1 ≤ k ∧ k ≤ 5 ∧ src ≤ 2 ∧ 1 ≤ dst ∧ dst ≤ 2 ∧ src ≠ dst) →
      exec (.hstage k src dst) s = .next (refusedWith .operand s)) ∧
    (1 ≤ k ∧ k ≤ 5 → src = 0 → 1 ≤ dst ∧ dst ≤ 2 → s.hdrLen ≠ 80 →
      exec (.hstage k src dst) s = .next (refusedWith .hdrLen s)) ∧
    (s.hdrLen ≠ 80 → exec .powhash s = .next (refusedWith .hdrLen s))

/-! ## System commands -/

/-- R122: `NOP` completes and does nothing else. -/
def Obligations.NopCompletes : Prop :=
  ∀ s : State, Ready s → exec .nop s = .next (finished s)

/-- R123: `CLR` clears `ERR`, `DONE` and `HAZ` and nothing else, whether or not an error is pending; `STATUS` then reads
0. -/
def Obligations.ClrClearsTheStatus : Prop :=
  ∀ s : State, s.running = none →
    exec .clr s = .next { s with err := none, done := false, haz := false } ∧
    statusWord { s with err := none, done := false, haz := false } = 0

/-- R124, R141, R142: `SRST`, whether or not an error is pending, and the reset input, also while a command runs, give
every piece of the CORE's state its reset value. What stays is the outside world's: its pending actions, the last
response, the count of free values, the mark on the run (the model's own fields, log entries 2, 6 and 9). -/
def Obligations.SrstAndResetInputReset : Prop :=
  ∀ s : State,
    (s.running = none →
      exec .srst s = .next { State.reset with
        port := s.port, resp := s.resp, freeCount := s.freeCount, offProtocol := s.offProtocol }) ∧
    (∀ (e : Bool) (rest : List PortEvent), s.port = ⟨e, .reset⟩ :: rest → (s.running = none ∨ e = true) →
      step s = .next { State.reset with
        port := rest, resp := s.resp, freeCount := s.freeCount, offProtocol := s.offProtocol })

/-- R30: the values after reset; a `DERIVE` issued then raises `ERR_PARAM`. -/
def Obligations.ResetValues : Prop :=
  (∀ i : Fin 16, State.reset.S[i] = if h : i.val < 8 then 0 else Config.params.iv[i.val - 8]) ∧
  State.reset.outLen = 0 ∧ State.reset.pwdLen = 0 ∧ State.reset.saltLen = 0 ∧ State.reset.timeCost = 0 ∧
  State.reset.nRows = 0 ∧ State.reset.nCols = 0 ∧ State.reset.hdrLen = 0 ∧
  State.reset.row = 0 ∧ State.reset.prev = 0 ∧ State.reset.rowa = 0 ∧ State.reset.stride = 0 ∧
  State.reset.window = 0 ∧ State.reset.gap = 0 ∧ State.reset.tau = 0 ∧ State.reset.nBlk = 0 ∧
  State.reset.seq.qidx = 0 ∧ State.reset.seq.rnd = 0 ∧ State.reset.seq.tgt = 0 ∧ State.reset.seq.col = 0 ∧
  State.reset.seq.blk = 0 ∧ State.reset.seq.stage = 0 ∧ State.reset.seq.phase = .idle ∧
  statusWord State.reset = 0 ∧ (∀ a, memGet? State.reset.mem a = none) ∧ (∀ k : Fin 5, State.reset.acc[k] = none) ∧
  exec .derive State.reset = .next (refusedWith .param State.reset)

/-! ## The permutation -/

/-- R71, R72, R76: `QR q` applies `G` to the tuple `QTAB[q]` and changes nothing else. -/
def Obligations.QrAppliesOneQuarterRound : Prop :=
  ∀ (q : Fin 8) (s : State) (a b c d : Fin 16), Ready s → specTuples[q.val]? = some (a, b, c, d) →
    ∃ S', exec (.qr q) s = .next (finished { s with S := S' }) ∧ words S' = specG a b c d (words s.S)

/-- R74, R75, R78, R79: `PERM.R` applies exactly one round and `PERM.F` exactly twelve; neither changes anything else.
-/
def Obligations.PermAppliesItsRounds : Prop :=
  ∀ s : State, Ready s →
    (∃ S', exec .permR s = .next (finished { s with S := S' }) ∧ words S' = specRound (words s.S)) ∧
    (∃ S', exec .permF s = .next (finished { s with S := S' }) ∧ words S' = specRounds 12 (words s.S))

/-- R80, which the spec derives from R73 to R79: (a) `QR 0 .. QR 7` leaves what `PERM.R` leaves; (b) so does any
reordering of the first four and of the last four; (c) moving a diagonal quarter-round before a column quarter-round does
not (every diagonal shares a word with every column); (d) twelve `PERM.R` leave what `PERM.F` leaves. -/
def Obligations.QuarterRoundOrder : Prop :=
  (∀ s : State, Ready s →
    execAll ((List.finRange 8).map .qr) s = exec .permR s ∧
    (∀ l l' : List (Fin 8), l.Perm [0, 1, 2, 3] → l'.Perm [4, 5, 6, 7] →
      execAll ((l ++ l').map .qr) s = exec .permR s) ∧
    execAll (List.replicate 12 .permR) s = exec .permF s) ∧
  (∀ c d : Fin 8, c < 4 → 4 ≤ d →
    ∃ s : State, Ready s ∧ execAll ((movedBefore d c).map .qr) s ≠ exec .permR s)

/-- R77: the quarter-round sequencer, started for `n` rounds, applies exactly `n` rounds in `8n` micro-steps and leaves
its counters at zero. The sequencer stands beside `exec`, whose commands run a transform as one step, as R77 allows: log
entry 7. -/
def Obligations.SequencerRunsNRounds : Prop :=
  ∀ (n : BitVec 4) (s : State), n ≠ 0 →
    words (seqTransform n s).S = specRounds n.toNat (words s.S) ∧
    seqTransform n s =
      { s with S := (seqTransform n s).S, seq := { s.seq with qidx := 0, rnd := 0, tgt := 0 } }

/-- R71, R75: a quarter-round loses no state, and the zero state is a fixed point of both transforms. -/
def Obligations.QuarterRoundIsABijection : Prop :=
  (∀ q : Fin 8, Function.Bijective (quarterRound q)) ∧
  reducedTransform (Vector.replicate 16 0) = Vector.replicate 16 0 ∧
  fullTransform (Vector.replicate 16 0) = Vector.replicate 16 0

/-! ## The sponge -/

/-- R81, R86: `SINIT` sets `S` to the fixed initial state and changes nothing else. -/
def Obligations.SinitSetsTheInitialState : Prop :=
  ∀ s : State, Ready s →
    ∃ S', exec .sinit s = .next (finished { s with S := S' }) ∧
      (∀ i : Fin 16, S'[i] = if h : i.val < 8 then 0 else Config.params.iv[i.val - 8])

/-- R82, R87: `ABSF` XORs the block into `S[0..12)`, applies twelve rounds, and changes nothing else. -/
def Obligations.AbsfAbsorbsABlock : Prop :=
  ∀ (row col : Nat) (s : State) (blk : Fin 12 → Word), Ready s → Geometry s →
    row < s.nRows.toNat → col < s.nCols.toNat → HoldsBlock s.mem s.nCols.toNat row col blk →
    ∃ S', exec (.absf row col) s = .next (finished { s with S := S' }) ∧
      words S' = specRounds 12 (xorRate blk (words s.S))

/-- R83, R88: `ABSS` XORs safe block `n` of PADBUF into `S[0..8)`, applies twelve rounds, and changes nothing else. -/
def Obligations.AbssAbsorbsASafeBlock : Prop :=
  ∀ (n : Nat) (s : State) (blk : Fin 8 → Word), Ready s → n < s.nBlk.toNat →
    (∀ k : Fin 8, HoldsWord s.mem (0x4000 + 64 * n + 8 * k.val) (blk k)) →
    ∃ S', exec (.abss n) s = .next (finished { s with S := S' }) ∧
      words S' = specRounds 12 (xorRate blk (words s.S))

/-- R85, R89: `SQZ` writes `OUTLEN` bytes: byte `j` is byte `j mod 96` of the rate part, little-endian, after `j div 96`
full transforms. `S` takes one full transform for every full block. Every other byte of storage is kept. -/
def Obligations.SqzSqueezesIntoOut : Prop :=
  ∀ s : State, Ready s → s.outLen.toNat ≤ Config.params.outMax →
    ∃ S' m', exec .sqz s = .next (finished { s with S := S', mem := m' }) ∧
      words S' = specRounds (12 * (s.outLen.toNat / 96)) (words s.S) ∧
      (∀ j, j < s.outLen.toNat → memGet? m' (0x3000 + j) =
        some (wordByte (specRounds (12 * (j / 96)) (words s.S) (Fin.ofNat 16 (j % 96 / 8))) (j % 8))) ∧
      SameOutside s.mem m' 0x3000 s.outLen.toNat

/-! ## The Memory-Hard Core -/

/-- R90, R103: `PAD` writes the padded input to PADBUF and the number of its safe blocks to `NBLK`, and changes nothing
else. -/
def Obligations.PadWritesThePaddedInput : Prop :=
  ∀ (s : State) (pwd salt : List Byte), Ready s → PadFits s →
    pwd.length = s.pwdLen.toNat → HoldsBytes s.mem 0x1000 pwd →
    salt.length = s.saltLen.toNat → HoldsBytes s.mem 0x2000 salt →
    ∃ m', exec .pad s = .next (finished { s with mem := m', nBlk := BitVec.ofNat 64 (blocksOf s) }) ∧
      (∀ i, i < 64 * blocksOf s → memGet? m' (0x4000 + i) =
        some (paddedByte (message s.outLen pwd salt s.timeCost s.nRows s.nCols) (blocksOf s) i)) ∧
      SameOutside s.mem m' 0x4000 (64 * blocksOf s)

/-- R91, R104: `SQROW0` writes the rate part after `i` rounds to column `C - 1 - i` of the row, and changes nothing else
in storage. `S` takes `C` rounds, or `C - 1` with `ROW0_TRAILING_TRANSFORM = false`. -/
def Obligations.Sqrow0FillsTheRow : Prop :=
  ∀ (rout : Nat) (s : State), Ready s → Geometry s → rout < s.nRows.toNat →
    ∃ S' m', exec (.sqrow0 rout) s = .next (finished { s with S := S', mem := m' }) ∧
      words S' = specRounds (if Config.params.row0Trailing then s.nCols.toNat else s.nCols.toNat - 1) (words s.S) ∧
      (∀ i, i < s.nCols.toNat → HoldsBlock m' s.nCols.toNat rout (s.nCols.toNat - 1 - i)
        (rateWord (specRounds i (words s.S)))) ∧
      SameOutside s.mem m' (rowBase s.nCols.toNat rout) (96 * s.nCols.toNat)

/-- R92, R105: `DPXROW1` absorbs the columns of the input row in ascending order and writes the output row in descending
order, and changes nothing else. -/
def Obligations.Dpxrow1BuildsTheRow : Prop :=
  ∀ (rin rout : Nat) (s : State) (X : Nat → Fin 12 → Word), Ready s → Geometry s →
    rin < s.nRows.toNat → rout < s.nRows.toNat → rin ≠ rout → HoldsRow s.mem s.nCols.toNat rin X →
    ∃ S' m', exec (.dpxrow1 rin rout) s = .next (finished { s with S := S', mem := m' }) ∧
      words S' = duplexState X (words s.S) s.nCols.toNat ∧
      (∀ c, c < s.nCols.toNat → HoldsBlock m' s.nCols.toNat rout (s.nCols.toNat - 1 - c)
        (fun k => X c k ^^^ rateWord (duplexState X (words s.S) (c + 1)) k)) ∧
      SameOutside s.mem m' (rowBase s.nCols.toNat rout) (96 * s.nCols.toNat)

/-- R93, R106: `DPXSETUP` absorbs the word-wise sum of the two input rows, writes the new row (at the same column, or at
the mirrored one with `SETUP_NEWROW_REVERSED`), feeds the rotated rate part back into row*, and changes nothing else. -/
def Obligations.DpxsetupBuildsTheRow : Prop :=
  ∀ (prev rowa rnew : Nat) (s : State) (X Y : Nat → Fin 12 → Word), Ready s → Geometry s →
    prev < s.nRows.toNat → rowa < s.nRows.toNat → rnew < s.nRows.toNat →
    prev ≠ rowa → prev ≠ rnew → rowa ≠ rnew →
    HoldsRow s.mem s.nCols.toNat prev X → HoldsRow s.mem s.nCols.toNat rowa Y →
    ∃ S' m', exec (.dpxsetup prev rowa rnew) s = .next (finished { s with S := S', mem := m' }) ∧
      words S' = duplexState (fun c k => X c k + Y c k) (words s.S) s.nCols.toNat ∧
      (∀ c, c < s.nCols.toNat →
        HoldsBlock m' s.nCols.toNat rnew
          (if Config.params.newRowReversed then s.nCols.toNat - 1 - c else c)
          (fun k => X c k ^^^ rateWord (duplexState (fun c k => X c k + Y c k) (words s.S) (c + 1)) k) ∧
        HoldsBlock m' s.nCols.toNat rowa c
          (fun k => Y c k ^^^ rotatedWord (duplexState (fun c k => X c k + Y c k) (words s.S) (c + 1)) k)) ∧
      (∀ a, (a < rowBase s.nCols.toNat rnew ∨ rowBase s.nCols.toNat rnew + 96 * s.nCols.toNat ≤ a) →
        (a < rowBase s.nCols.toNat rowa ∨ rowBase s.nCols.toNat rowa + 96 * s.nCols.toNat ≤ a) →
        memGet? m' a = memGet? s.mem a)

/-- R94, R107, and R95, which the spec derives from R94: `DPXWANDER` absorbs the word-wise sum of `prev` and row*,
updates `row` and row* in place, and changes nothing else, also when the rows coincide: a row that is both takes both
updates. -/
def Obligations.DpxwanderUpdatesTheRows : Prop :=
  ∀ (prev rowa row : Nat) (s : State) (X Y Z : Nat → Fin 12 → Word), Ready s → Geometry s →
    prev < s.nRows.toNat → rowa < s.nRows.toNat → row < s.nRows.toNat →
    HoldsRow s.mem s.nCols.toNat prev X → HoldsRow s.mem s.nCols.toNat rowa Y →
    HoldsRow s.mem s.nCols.toNat row Z →
    ∃ S' m', exec (.dpxwander prev rowa row) s = .next (finished { s with S := S', mem := m' }) ∧
      words S' = duplexState (fun c k => X c k + Y c k) (words s.S) s.nCols.toNat ∧
      (∀ c, c < s.nCols.toNat →
        (rowa ≠ row →
          HoldsBlock m' s.nCols.toNat row c
            (fun k => Z c k ^^^ rateWord (duplexState (fun c k => X c k + Y c k) (words s.S) (c + 1)) k) ∧
          HoldsBlock m' s.nCols.toNat rowa c
            (fun k => Y c k ^^^ rotatedWord (duplexState (fun c k => X c k + Y c k) (words s.S) (c + 1)) k)) ∧
        (rowa = row →
          HoldsBlock m' s.nCols.toNat row c
            (fun k => Z c k ^^^ rateWord (duplexState (fun c k => X c k + Y c k) (words s.S) (c + 1)) k ^^^
              rotatedWord (duplexState (fun c k => X c k + Y c k) (words s.S) (c + 1)) k))) ∧
      (∀ a, (a < rowBase s.nCols.toNat row ∨ rowBase s.nCols.toNat row + 96 * s.nCols.toNat ≤ a) →
        (a < rowBase s.nCols.toNat rowa ∨ rowBase s.nCols.toNat rowa + 96 * s.nCols.toNat ≤ a) →
        memGet? m' a = memGet? s.mem a)

/-- R18, R96, R97, R108: `SETUP` runs whatever M held before: it answers a next state with every row of the matrix
built, the registers at the end of the schedule (`ROW = NROWS`, `PREV = NROWS - 1`, `ROWA = 0`, `WINDOW = NROWS`,
`STEP` and `GAP` those of the schedule, in two's complement), and nothing else changed; `TAU` is not written. -/
def Obligations.SetupCompletes : Prop :=
  ∀ s : State, Ready s → Parameters 1 s →
    ∃ S' m', exec .setup s = .next (finished { s with
        S := S', mem := m', row := s.nRows, prev := s.nRows - 1, rowa := 0,
        stride := BitVec.ofInt 64 (schedule (s.nRows.toNat - 2)).stride, window := s.nRows,
        gap := BitVec.ofInt 64 (schedule (s.nRows.toNat - 2)).gap }) ∧
      Held m' 0x10000 (96 * (s.nRows.toNat * s.nCols.toNat)) ∧
      SameOutside s.mem m' 0x10000 (96 * (s.nRows.toNat * s.nCols.toNat))

/-- R96, R108: `SETUP` leaves the `S` and the storage that the unit commands of its schedule leave. For `NROWS` above 256
these have row operands that no 8-bit field holds (R60): there the commands are those of `exec`, which takes any natural
number (the model's choice: log entry 16), and not of a host. -/
def Obligations.SetupIsItsUnitCommands : Prop :=
  ∀ s : State, Ready s → Parameters 1 s →
    ∃ t u, exec .setup s = .next t ∧ execAll (setupCommands s.nRows.toNat) s = .next u ∧
      u.S = t.S ∧ u.mem = t.mem

/-- R98, R109: `WANDER` on a matrix whose rows are all held answers a next state with `ROW = 0`, `TAU = TIMECOST`,
`PREV` and `ROWA` rows of the matrix, `STEP` that of the last pass, and nothing else changed but `S` and M. -/
def Obligations.WanderCompletes : Prop :=
  ∀ s : State, Ready s → Parameters s.timeCost s → s.prev.toNat < s.nRows.toNat →
    Held s.mem 0x10000 (96 * (s.nRows.toNat * s.nCols.toNat)) →
    ∃ S' m' prev rowa, exec .wander s = .next (finished { s with
        S := S', mem := m', row := 0, prev := prev, rowa := rowa,
        stride := if s.timeCost.toNat % 2 = 0 then -1 else BitVec.ofNat 64 (s.nRows.toNat / 2) - 1,
        tau := s.timeCost }) ∧
      prev.toNat < s.nRows.toNat ∧ rowa.toNat < s.nRows.toNat ∧
      Held m' 0x10000 (96 * (s.nRows.toNat * s.nCols.toNat)) ∧
      SameOutside s.mem m' 0x10000 (96 * (s.nRows.toNat * s.nCols.toNat))

/-- R98, R107, R147: `WANDER` leaves the `S` and the storage that the host leaves when it walks by hand: the rows of
the passes in order, row* the remainder of `S[0]`, `PREV` the first previous row. `ROWA` ends as the row* of the last
visit and `PREV` as the last row visited. For `NROWS` above 256 the `DPXWANDER` have row operands that no 8-bit field
holds (R60): there they are those of `exec`, which takes any natural number (the model's choice: log entry 16), and not
of a host. -/
def Obligations.WanderIsTheWalkByHand : Prop :=
  ∀ s : State, Ready s → Parameters s.timeCost s → s.prev.toNat < s.nRows.toNat →
    Held s.mem 0x10000 (96 * (s.nRows.toNat * s.nCols.toNat)) →
    ∃ t u rowa prev, exec .wander s = .next t ∧
      walkByHand s.nRows.toNat (walkRows s.nRows.toNat s.timeCost.toNat) 0 s.prev.toNat s = .next (u, rowa, prev) ∧
      u.S = t.S ∧ u.mem = t.mem ∧ t.rowa = BitVec.ofNat 64 rowa ∧ t.prev = BitVec.ofNat 64 prev

/-- R97, R100, R110: `DERIVE` runs whatever M and PADBUF held before: with its checks passed and the password and salt
held it answers a next state. It writes `S`, OUT, the padded input, the matrix, `NBLK` and the sequencer registers, and
nothing else. -/
def Obligations.DeriveCompletes : Prop :=
  ∀ s : State, Ready s → Parameters s.timeCost s → PadFits s → s.outLen.toNat ≤ Config.params.outMax →
    InputsHeld s →
    ∃ S' m' prev rowa, exec .derive s = .next (finished { s with
        S := S', mem := m', nBlk := BitVec.ofNat 64 (blocksOf s), row := 0, prev := prev, rowa := rowa,
        stride := if s.timeCost.toNat % 2 = 0 then -1 else BitVec.ofNat 64 (s.nRows.toNat / 2) - 1,
        window := s.nRows, gap := BitVec.ofInt 64 (schedule (s.nRows.toNat - 2)).gap, tau := s.timeCost }) ∧
      prev.toNat < s.nRows.toNat ∧ rowa.toNat < s.nRows.toNat ∧
      Held m' 0x3000 s.outLen.toNat ∧
      (∀ a, (a < 0x3000 ∨ 0x3000 + s.outLen.toNat ≤ a) → (a < 0x4000 ∨ 0x4000 + 64 * blocksOf s ≤ a) →
        (a < 0x10000 ∨ 0x10000 + 96 * (s.nRows.toNat * s.nCols.toNat) ≤ a) → memGet? m' a = memGet? s.mem a)

/-- R110: `DERIVE` leaves the same state as `PAD; SINIT; ABSS 0; …; ABSS NBLK-1; SETUP; WANDER; ABSF ROWA, 0; SQZ`
issued by the host. For `NROWS` above 256 the operand of `ABSF` may be one that no 8-bit field holds (R60): there the
command is that of `exec`, which takes any natural number (the model's choice: log entry 16), and not of a host. -/
def Obligations.DeriveIsTheDerivationByHand : Prop :=
  ∀ s : State, Ready s → Parameters s.timeCost s → PadFits s → s.outLen.toNat ≤ Config.params.outMax →
    InputsHeld s →
    ∃ t u, exec .derive s = .next t ∧
      execAll (.pad :: .sinit :: ((List.range (blocksOf s)).map .abss ++ [.setup, .wander])) s = .next u ∧
      execAll [.absf u.rowa.toNat 0, .sqz] u = .next t

/-- R97: the result of `DERIVE` does not depend on what M, PADBUF, `S` or the sequencer registers held before: two
states with the same parameter registers, password and salt end with the same `S`, the same bytes of OUT, of the padded
input and of the matrix, and the same `NBLK` and sequencer registers. -/
def Obligations.DeriveForgetsTheScratch : Prop :=
  ∀ s1 s2 : State, Ready s1 → Ready s2 → Parameters s1.timeCost s1 → PadFits s1 →
    s1.outLen.toNat ≤ Config.params.outMax → InputsHeld s1 →
    s2.outLen = s1.outLen → s2.pwdLen = s1.pwdLen → s2.saltLen = s1.saltLen → s2.timeCost = s1.timeCost →
    s2.nRows = s1.nRows → s2.nCols = s1.nCols →
    (∀ k, k < s1.pwdLen.toNat → memGet? s2.mem (0x1000 + k) = memGet? s1.mem (0x1000 + k)) →
    (∀ k, k < s1.saltLen.toNat → memGet? s2.mem (0x2000 + k) = memGet? s1.mem (0x2000 + k)) →
    ∃ t1 t2, exec .derive s1 = .next t1 ∧ exec .derive s2 = .next t2 ∧ t2.S = t1.S ∧ t2.nBlk = t1.nBlk ∧
      t2.row = t1.row ∧ t2.prev = t1.prev ∧ t2.rowa = t1.rowa ∧ t2.stride = t1.stride ∧
      t2.window = t1.window ∧ t2.gap = t1.gap ∧ t2.tau = t1.tau ∧
      (∀ a, (0x3000 ≤ a ∧ a < 0x3000 + s1.outLen.toNat) ∨ (0x4000 ≤ a ∧ a < 0x4000 + 64 * blocksOf s1) ∨
        (0x10000 ≤ a ∧ a < 0x10000 + 96 * (s1.nRows.toNat * s1.nCols.toNat)) →
        memGet? t2.mem a = memGet? t1.mem a)

/-! ## The HashPrimitive adapter and the chain -/

/-- R113: `HP.RESET k` sets `ACC[k]` to the empty string, whatever it held, and changes nothing else. -/
def Obligations.HpResetEmptiesTheUnit : Prop :=
  ∀ (u : Fin 5) (s : State), Ready s →
    exec (.hpReset (u.val + 1)) s = .next (finished { s with acc := s.acc.set u (some []) })

/-- R114: `HP.UPDATE k, src` appends the whole source buffer to `ACC[k]` and changes nothing else. -/
def Obligations.HpUpdateAppendsTheBuffer : Prop :=
  ∀ (u : Fin 5) (src base size : Nat) (fed bs : List Byte) (s : State), Ready s → SrcRange src base size →
    (src = 0 → s.hdrLen = 80) → s.acc[u] = some fed → bs.length = size → HoldsBytes s.mem base bs →
    exec (.hpUpdate (u.val + 1) src) s = .next (finished { s with acc := s.acc.set u (some (fed ++ bs)) })

/-- R115: `HP.DIGEST k, dst` writes the 32 bytes of `Hk(ACC[k])` to the destination and leaves `ACC[k]` without a value;
nothing else changes. That it completes rests on the hash units always answering (R62, 93 item U9), which is the model's
reading of R8: log entry 11. -/
def Obligations.HpDigestWritesTheDigest : Prop :=
  ∀ (u : Fin 5) (dst base : Nat) (fed : List Byte) (s : State), Ready s → DstBase dst base → s.acc[u] = some fed →
    ∃ m', exec (.hpDigest (u.val + 1) dst) s = .next (finished { s with mem := m', acc := s.acc.set u none }) ∧
      HoldsBytes m' base (hashed u fed) ∧ SameOutside s.mem m' base 32

/-- R116: `HSTAGE k, src, dst` writes `Hk` of the source buffer to the destination and leaves `ACC[k]` without a value,
whatever it held; nothing else changes. That it completes rests on the hash units always answering (R62, 93 item U9),
which is the model's reading of R8: log entry 11. -/
def Obligations.HstageRunsOneStage : Prop :=
  ∀ (u : Fin 5) (src base size dst dbase : Nat) (bs : List Byte) (s : State), Ready s → SrcRange src base size →
    DstBase dst dbase → src ≠ dst → (src = 0 → s.hdrLen = 80) → bs.length = size → HoldsBytes s.mem base bs →
    ∃ m', exec (.hstage (u.val + 1) src dst) s = .next (finished { s with mem := m', acc := s.acc.set u none }) ∧
      HoldsBytes m' dbase (hashed u bs) ∧ SameOutside s.mem m' dbase 32

/-- R117: `HP.RESET k; HP.UPDATE k, src; HP.DIGEST k, dst` leaves the same state as `HSTAGE k, src, dst` whenever
`HSTAGE` completes. That the three complete too rests on the hash units always answering: log entry 11. -/
def Obligations.HashPseudoCommandIsHstage : Prop :=
  ∀ (k src dst : Nat) (s t : State), Ready s → exec (.hstage k src dst) s = .next t → t.err = none →
    execAll [.hpReset k, .hpUpdate k src, .hpDigest k dst] s = .next t

/-- R118, R119: `POWHASH` with `HDRLEN = 80` and a header held answers a next state, whatever the rest of storage held.
BUFA ends as `H5(H3(H4(B)))` and BUFB as `H3(H4(B))`, where `B` is what stage 4 derives from `A = H3(H2(H1(HDR)))` as
password and salt with the parameters `(32, A, A, 1, 4, 4)`, on the storage `mA` that stages 1 to 3 leave. `S`, the first
128 bytes of PADBUF, the 16 blocks of M and `ROWA` end as that derivation leaves them, the other registers as R119 says,
every `ACC[k]` is without a value, and nothing else changes. That it completes rests on the hash units always answering
(R62, 93 item U9), which is the model's reading of R8: log entry 11. The six hash stages are those of R118 and R119; the
seven calls that R147 counts are log entry 21. -/
def Obligations.PowhashRunsTheChain : Prop :=
  ∀ (s : State) (hdr : List Byte), Ready s → s.hdrLen = 80 → hdr.length = 80 → HoldsBytes s.mem 0x180 hdr →
    ∃ m' mA d, exec .powhash s = .next (finished { s with
        S := d.work.S, mem := m', nBlk := 2, row := 0, prev := 3, rowa := BitVec.ofNat 64 d.tour.rowa, stride := 1,
        window := 4, gap := BitVec.ofInt 64 (-1), tau := 1, acc := Vector.replicate 5 none }) ∧
      HoldsBytes mA 0x200 (hashed 2 (hashed 1 (hashed 0 hdr))) ∧ HoldsBytes mA 0x220 (hashed 1 (hashed 0 hdr)) ∧
      SameOutside s.mem mA 0x200 64 ∧
      deriveProc Config.params 32 (hashed 2 (hashed 1 (hashed 0 hdr))) (hashed 2 (hashed 1 (hashed 0 hdr))) 1 4 4 mA =
        .ok d ∧ d.out.length = 32 ∧
      HoldsBytes m' 0x200 (hashed 4 (hashed 2 (hashed 3 d.out))) ∧
      HoldsBytes m' 0x220 (hashed 2 (hashed 3 d.out)) ∧
      (∀ a, (0x4000 ≤ a ∧ a < 0x4080) ∨ (0x10000 ≤ a ∧ a < 0x10600) → memGet? m' a = memGet? d.work.mem a) ∧
      Held m' 0x4000 128 ∧ Held m' 0x10000 1536 ∧
      (∀ a, (a < 0x200 ∨ 0x240 ≤ a) → (a < 0x4000 ∨ 0x4080 ≤ a) → (a < 0x10000 ∨ 0x10600 ≤ a) →
        memGet? m' a = memGet? s.mem a)

/-- R119: the result of `POWHASH` depends on nothing but the header (and the machine's parameters): two states with the
same header end with the same BUFA, BUFB, `S`, `ROWA`, padded input and matrix. That both complete rests on the hash units
always answering (R62, 93 item U9), which is the model's reading of R8: log entry 11. -/
def Obligations.PowhashDependsOnTheHeaderAlone : Prop :=
  ∀ s1 s2 : State, Ready s1 → Ready s2 → s1.hdrLen = 80 → s2.hdrLen = 80 → Held s1.mem 0x180 80 →
    (∀ k, k < 80 → memGet? s2.mem (0x180 + k) = memGet? s1.mem (0x180 + k)) →
    ∃ t1 t2, exec .powhash s1 = .next t1 ∧ exec .powhash s2 = .next t2 ∧ t2.S = t1.S ∧ t2.rowa = t1.rowa ∧
      (∀ a, (0x200 ≤ a ∧ a < 0x240) ∨ (0x4000 ≤ a ∧ a < 0x4080) ∨ (0x10000 ≤ a ∧ a < 0x10600) →
        memGet? t2.mem a = memGet? t1.mem a)

/-! ## The host port -/

/-- R41, R43, 93 item U15: a transaction of another width, at an address that is not a multiple of 8, or at an unmapped
address ends in ERROR and changes nothing. That this holds also while a command runs, where R44 speaks of any access, is
the model's reading: log entry 3. -/
def Obligations.BadTransactionsEndInError : Prop :=
  ∀ (s : State) (e : Bool) (addr : Addr) (bytes : Nat) (v : Word) (rest : List PortEvent),
    (s.running = none ∨ e = true) →
    (bytes ≠ 8 ∨ addr.toNat % 8 ≠ 0 ∨ ¬ Mapped addr.toNat) →
    (s.port = ⟨e, .read addr bytes⟩ :: rest ∨ s.port = ⟨e, .write addr bytes v⟩ :: rest) →
    step s = .next { s with port := rest, resp := some .error }

/-- R38, R39: while no command runs, a value the host writes to a writable location is what a read of it returns next. A
write to a register sets that register and changes nothing else, and a write to `S[i]` sets that word and changes nothing
else (a write to storage is the subject of `HostWritesAreLittleEndian`). -/
def Obligations.HostReadsWhatItWrote : Prop :=
  ∀ (s : State) (e e' : Bool) (addr : Addr) (v : Word) (rest : List PortEvent), s.running = none →
    addr.toNat % 8 = 0 → Writable addr.toNat →
    s.port = ⟨e, .write addr 8 v⟩ :: ⟨e', .read addr 8⟩ :: rest →
    ∃ t u, step s = .next t ∧ t.resp = some .okay ∧ step t = .next u ∧ u.resp = some (.value v) ∧
      (∀ x, withRegister addr.toNat v s = some x →
        t = { x with port := ⟨e', .read addr 8⟩ :: rest, resp := some .okay }) ∧
      (∀ i : Fin 16, addr.toNat = 0x100 + 8 * i.val →
        t = { s with S := s.S.set i v, port := ⟨e', .read addr 8⟩ :: rest, resp := some .okay })

/-- R39, R40: a host write to storage puts bits `8i+7:8i` at address `addr + i` and changes nothing else. -/
def Obligations.HostWritesAreLittleEndian : Prop :=
  ∀ (s : State) (e : Bool) (addr : Addr) (v : Word) (rest : List PortEvent), s.running = none →
    addr.toNat % 8 = 0 → Storage addr.toNat → s.port = ⟨e, .write addr 8 v⟩ :: rest →
    ∃ m', step s = .next { s with port := rest, resp := some .okay, mem := m' } ∧
      HoldsWord m' addr.toNat v ∧ SameOutside s.mem m' addr.toNat 8

/-- R27, R38 (a byte without value reads as a free value: log entries 2 and 5): while no command runs, a host read
changes nothing but the response (and the model's count of free values). Of a register or a word of `S` it returns the
64-bit value, `CMD` reading 0; of storage it returns every byte that is held, in its place, and anything for the
others. -/
def Obligations.HostReadsHaveNoSideEffect : Prop :=
  ∀ (s : State) (e : Bool) (addr : Addr) (bytes : Nat) (rest : List PortEvent), s.running = none →
    s.port = ⟨e, .read addr bytes⟩ :: rest →
    ∃ r n, step s = .next { s with port := rest, resp := some r, freeCount := n } ∧
      (bytes = 8 → ∀ x, registerValue s addr.toNat = some x → r = .value x) ∧
      (bytes = 8 → ∀ i : Fin 16, addr.toNat = 0x100 + 8 * i.val → r = .value s.S[i]) ∧
      (bytes = 8 → addr.toNat % 8 = 0 → Storage addr.toNat → ∃ v, r = .value v ∧
        ∀ i b, i < 8 → memGet? s.mem (addr.toNat + i) = some b → wordByte v i = b)

/-- R42: while no command runs, a write to `STATUS` or a read-only register is answered OKAY and ignored, and a read of
`CMD` returns 0. -/
def Obligations.ReadOnlyRegistersIgnoreWrites : Prop :=
  ∀ (s : State) (e : Bool) (addr : Addr) (v : Word) (rest : List PortEvent), s.running = none →
    (addr.toNat % 8 = 0 → (addr = 8 ∨ (0x48 ≤ addr.toNat ∧ addr.toNat < 0x88)) →
      s.port = ⟨e, .write addr 8 v⟩ :: rest → step s = .next { s with port := rest, resp := some .okay }) ∧
    (s.port = ⟨e, .read 0 8⟩ :: rest → step s = .next { s with port := rest, resp := some (.value 0) })

/-! ## Whole-machine rules -/

/-- R16, R18, R20, R48: which registers a command other than `SRST` can change. None changes a parameter register or
`HDRLEN`; only `SETUP`, `WANDER`, `DERIVE` and `POWHASH` change a sequencer register; only `PAD`, `DERIVE` and `POWHASH`
change `NBLK`; `PAD`, the adapter commands, `HSTAGE`, `NOP` and `CLR` leave `S` alone; only the adapter commands,
`HSTAGE` and `POWHASH` change `ACC`. -/
def Obligations.CommandsLeaveOtherRegistersAlone : Prop :=
  ∀ (i : Instr) (s t : State), i ≠ .srst → exec i s = .next t →
    (t.outLen = s.outLen ∧ t.pwdLen = s.pwdLen ∧ t.saltLen = s.saltLen ∧ t.timeCost = s.timeCost ∧
      t.nRows = s.nRows ∧ t.nCols = s.nCols ∧ t.hdrLen = s.hdrLen) ∧
    ((i ≠ .setup ∧ i ≠ .wander ∧ i ≠ .derive ∧ i ≠ .powhash) →
      t.row = s.row ∧ t.prev = s.prev ∧ t.rowa = s.rowa ∧ t.stride = s.stride ∧ t.window = s.window ∧
      t.gap = s.gap ∧ t.tau = s.tau) ∧
    ((i ≠ .pad ∧ i ≠ .derive ∧ i ≠ .powhash) → t.nBlk = s.nBlk) ∧
    ((i = .nop ∨ i = .clr ∨ i = .pad ∨ (∃ k, i = .hpReset k) ∨ (∃ k b, i = .hpUpdate k b) ∨
      (∃ k b, i = .hpDigest k b) ∨ (∃ k b c, i = .hstage k b c)) → t.S = s.S) ∧
    (((∀ k, i ≠ .hpReset k) ∧ (∀ k b, i ≠ .hpUpdate k b) ∧ (∀ k b, i ≠ .hpDigest k b) ∧
      (∀ k b c, i ≠ .hstage k b c) ∧ i ≠ .powhash) → t.acc = s.acc)

/-- R23, R24, R48: HDR, PWD and SALT are written by the host only: no command but `SRST` changes a byte of them. -/
def Obligations.CommandsLeaveHostBuffersAlone : Prop :=
  ∀ (i : Instr) (s t : State), i ≠ .srst → exec i s = .next t →
    ∀ a, (0x180 ≤ a ∧ a < 0x1D0) ∨ (0x1000 ≤ a ∧ a < 0x1000 + Config.params.pwdMax) ∨
      (0x2000 ≤ a ∧ a < 0x2000 + Config.params.saltMax) → memGet? t.mem a = memGet? s.mem a

/-! ## Invariants -/

/-- Every step keeps the storage canonical, inside the address map, and `NBLK` within PADBUF. -/
def Obligations.StepKeepsInvMemory : Prop :=
  ∀ s t : State, InvMemory s → step s = .next t → InvMemory t

/-- Every step keeps the hidden sequencer fields at rest and a running command an accepted one. That the fields are zero
also while a command runs is the model's choice, log entry 7: R19 says so for `BUSY = 0` only. -/
def Obligations.StepKeepsInvControl : Prop :=
  ∀ s t : State, InvControl s → step s = .next t → InvControl t

/-- Every step keeps each word of the Memory Matrix wholly held or wholly without value. -/
def Obligations.StepKeepsInvWords : Prop :=
  ∀ s t : State, InvWords s → step s = .next t → InvWords t

/-- The state after reset meets the three invariants. -/
def Obligations.ResetMeetsTheInvariants : Prop :=
  InvMemory State.reset ∧ InvControl State.reset ∧ InvWords State.reset
end

