-- ==== Sys2Proof/Laws/State.lean ====
section
/-! SUPPORT. One lemma per field per update of the state, true by `rfl`: no proof needs to unfold an update. -/

namespace Sys2Proof.Machine

/-! ### `setHaz` sets `HAZ` only -/

@[simp] theorem setHaz_S (s : State) : (setHaz s).S = s.S := rfl
@[simp] theorem setHaz_outLen (s : State) : (setHaz s).outLen = s.outLen := rfl
@[simp] theorem setHaz_pwdLen (s : State) : (setHaz s).pwdLen = s.pwdLen := rfl
@[simp] theorem setHaz_saltLen (s : State) : (setHaz s).saltLen = s.saltLen := rfl
@[simp] theorem setHaz_timeCost (s : State) : (setHaz s).timeCost = s.timeCost := rfl
@[simp] theorem setHaz_nRows (s : State) : (setHaz s).nRows = s.nRows := rfl
@[simp] theorem setHaz_nCols (s : State) : (setHaz s).nCols = s.nCols := rfl
@[simp] theorem setHaz_hdrLen (s : State) : (setHaz s).hdrLen = s.hdrLen := rfl
@[simp] theorem setHaz_row (s : State) : (setHaz s).row = s.row := rfl
@[simp] theorem setHaz_prev (s : State) : (setHaz s).prev = s.prev := rfl
@[simp] theorem setHaz_rowa (s : State) : (setHaz s).rowa = s.rowa := rfl
@[simp] theorem setHaz_stride (s : State) : (setHaz s).stride = s.stride := rfl
@[simp] theorem setHaz_window (s : State) : (setHaz s).window = s.window := rfl
@[simp] theorem setHaz_gap (s : State) : (setHaz s).gap = s.gap := rfl
@[simp] theorem setHaz_tau (s : State) : (setHaz s).tau = s.tau := rfl
@[simp] theorem setHaz_nBlk (s : State) : (setHaz s).nBlk = s.nBlk := rfl
@[simp] theorem setHaz_seq (s : State) : (setHaz s).seq = s.seq := rfl
@[simp] theorem setHaz_running (s : State) : (setHaz s).running = s.running := rfl
@[simp] theorem setHaz_done (s : State) : (setHaz s).done = s.done := rfl
@[simp] theorem setHaz_haz (s : State) : (setHaz s).haz = true := rfl
@[simp] theorem setHaz_err (s : State) : (setHaz s).err = s.err := rfl
@[simp] theorem setHaz_mem (s : State) : (setHaz s).mem = s.mem := rfl
@[simp] theorem setHaz_acc (s : State) : (setHaz s).acc = s.acc := rfl
@[simp] theorem setHaz_port (s : State) : (setHaz s).port = s.port := rfl
@[simp] theorem setHaz_resp (s : State) : (setHaz s).resp = s.resp := rfl
@[simp] theorem setHaz_freeCount (s : State) : (setHaz s).freeCount = s.freeCount := rfl
@[simp] theorem setHaz_offProtocol (s : State) : (setHaz s).offProtocol = s.offProtocol := rfl

/-! ### `markRun` marks the run only -/

@[simp] theorem markRun_S (s : State) : (markRun s).S = s.S := rfl
@[simp] theorem markRun_outLen (s : State) : (markRun s).outLen = s.outLen := rfl
@[simp] theorem markRun_pwdLen (s : State) : (markRun s).pwdLen = s.pwdLen := rfl
@[simp] theorem markRun_saltLen (s : State) : (markRun s).saltLen = s.saltLen := rfl
@[simp] theorem markRun_timeCost (s : State) : (markRun s).timeCost = s.timeCost := rfl
@[simp] theorem markRun_nRows (s : State) : (markRun s).nRows = s.nRows := rfl
@[simp] theorem markRun_nCols (s : State) : (markRun s).nCols = s.nCols := rfl
@[simp] theorem markRun_hdrLen (s : State) : (markRun s).hdrLen = s.hdrLen := rfl
@[simp] theorem markRun_row (s : State) : (markRun s).row = s.row := rfl
@[simp] theorem markRun_prev (s : State) : (markRun s).prev = s.prev := rfl
@[simp] theorem markRun_rowa (s : State) : (markRun s).rowa = s.rowa := rfl
@[simp] theorem markRun_stride (s : State) : (markRun s).stride = s.stride := rfl
@[simp] theorem markRun_window (s : State) : (markRun s).window = s.window := rfl
@[simp] theorem markRun_gap (s : State) : (markRun s).gap = s.gap := rfl
@[simp] theorem markRun_tau (s : State) : (markRun s).tau = s.tau := rfl
@[simp] theorem markRun_nBlk (s : State) : (markRun s).nBlk = s.nBlk := rfl
@[simp] theorem markRun_seq (s : State) : (markRun s).seq = s.seq := rfl
@[simp] theorem markRun_running (s : State) : (markRun s).running = s.running := rfl
@[simp] theorem markRun_done (s : State) : (markRun s).done = s.done := rfl
@[simp] theorem markRun_haz (s : State) : (markRun s).haz = s.haz := rfl
@[simp] theorem markRun_err (s : State) : (markRun s).err = s.err := rfl
@[simp] theorem markRun_mem (s : State) : (markRun s).mem = s.mem := rfl
@[simp] theorem markRun_acc (s : State) : (markRun s).acc = s.acc := rfl
@[simp] theorem markRun_port (s : State) : (markRun s).port = s.port := rfl
@[simp] theorem markRun_resp (s : State) : (markRun s).resp = s.resp := rfl
@[simp] theorem markRun_freeCount (s : State) : (markRun s).freeCount = s.freeCount := rfl
@[simp] theorem markRun_offProtocol (s : State) : (markRun s).offProtocol = true := rfl

/-! ### `start` sets `BUSY` and clears `DONE` only -/

@[simp] theorem start_S (i : Instr) (s : State) : (start i s).S = s.S := rfl
@[simp] theorem start_outLen (i : Instr) (s : State) : (start i s).outLen = s.outLen := rfl
@[simp] theorem start_pwdLen (i : Instr) (s : State) : (start i s).pwdLen = s.pwdLen := rfl
@[simp] theorem start_saltLen (i : Instr) (s : State) : (start i s).saltLen = s.saltLen := rfl
@[simp] theorem start_timeCost (i : Instr) (s : State) : (start i s).timeCost = s.timeCost := rfl
@[simp] theorem start_nRows (i : Instr) (s : State) : (start i s).nRows = s.nRows := rfl
@[simp] theorem start_nCols (i : Instr) (s : State) : (start i s).nCols = s.nCols := rfl
@[simp] theorem start_hdrLen (i : Instr) (s : State) : (start i s).hdrLen = s.hdrLen := rfl
@[simp] theorem start_row (i : Instr) (s : State) : (start i s).row = s.row := rfl
@[simp] theorem start_prev (i : Instr) (s : State) : (start i s).prev = s.prev := rfl
@[simp] theorem start_rowa (i : Instr) (s : State) : (start i s).rowa = s.rowa := rfl
@[simp] theorem start_stride (i : Instr) (s : State) : (start i s).stride = s.stride := rfl
@[simp] theorem start_window (i : Instr) (s : State) : (start i s).window = s.window := rfl
@[simp] theorem start_gap (i : Instr) (s : State) : (start i s).gap = s.gap := rfl
@[simp] theorem start_tau (i : Instr) (s : State) : (start i s).tau = s.tau := rfl
@[simp] theorem start_nBlk (i : Instr) (s : State) : (start i s).nBlk = s.nBlk := rfl
@[simp] theorem start_seq (i : Instr) (s : State) : (start i s).seq = s.seq := rfl
@[simp] theorem start_running (i : Instr) (s : State) : (start i s).running = some i := rfl
@[simp] theorem start_done (i : Instr) (s : State) : (start i s).done = false := rfl
@[simp] theorem start_haz (i : Instr) (s : State) : (start i s).haz = s.haz := rfl
@[simp] theorem start_err (i : Instr) (s : State) : (start i s).err = s.err := rfl
@[simp] theorem start_mem (i : Instr) (s : State) : (start i s).mem = s.mem := rfl
@[simp] theorem start_acc (i : Instr) (s : State) : (start i s).acc = s.acc := rfl
@[simp] theorem start_port (i : Instr) (s : State) : (start i s).port = s.port := rfl
@[simp] theorem start_resp (i : Instr) (s : State) : (start i s).resp = s.resp := rfl
@[simp] theorem start_freeCount (i : Instr) (s : State) : (start i s).freeCount = s.freeCount := rfl
@[simp] theorem start_offProtocol (i : Instr) (s : State) : (start i s).offProtocol = s.offProtocol := rfl

/-! ### `complete` clears `BUSY`, sets `DONE` and rests the sequencer -/

@[simp] theorem complete_S (s : State) : (complete s).S = s.S := rfl
@[simp] theorem complete_outLen (s : State) : (complete s).outLen = s.outLen := rfl
@[simp] theorem complete_pwdLen (s : State) : (complete s).pwdLen = s.pwdLen := rfl
@[simp] theorem complete_saltLen (s : State) : (complete s).saltLen = s.saltLen := rfl
@[simp] theorem complete_timeCost (s : State) : (complete s).timeCost = s.timeCost := rfl
@[simp] theorem complete_nRows (s : State) : (complete s).nRows = s.nRows := rfl
@[simp] theorem complete_nCols (s : State) : (complete s).nCols = s.nCols := rfl
@[simp] theorem complete_hdrLen (s : State) : (complete s).hdrLen = s.hdrLen := rfl
@[simp] theorem complete_row (s : State) : (complete s).row = s.row := rfl
@[simp] theorem complete_prev (s : State) : (complete s).prev = s.prev := rfl
@[simp] theorem complete_rowa (s : State) : (complete s).rowa = s.rowa := rfl
@[simp] theorem complete_stride (s : State) : (complete s).stride = s.stride := rfl
@[simp] theorem complete_window (s : State) : (complete s).window = s.window := rfl
@[simp] theorem complete_gap (s : State) : (complete s).gap = s.gap := rfl
@[simp] theorem complete_tau (s : State) : (complete s).tau = s.tau := rfl
@[simp] theorem complete_nBlk (s : State) : (complete s).nBlk = s.nBlk := rfl
@[simp] theorem complete_seq (s : State) : (complete s).seq = SeqPos.rest := rfl
@[simp] theorem complete_running (s : State) : (complete s).running = none := rfl
@[simp] theorem complete_done (s : State) : (complete s).done = true := rfl
@[simp] theorem complete_haz (s : State) : (complete s).haz = s.haz := rfl
@[simp] theorem complete_err (s : State) : (complete s).err = s.err := rfl
@[simp] theorem complete_mem (s : State) : (complete s).mem = s.mem := rfl
@[simp] theorem complete_acc (s : State) : (complete s).acc = s.acc := rfl
@[simp] theorem complete_port (s : State) : (complete s).port = s.port := rfl
@[simp] theorem complete_resp (s : State) : (complete s).resp = s.resp := rfl
@[simp] theorem complete_freeCount (s : State) : (complete s).freeCount = s.freeCount := rfl
@[simp] theorem complete_offProtocol (s : State) : (complete s).offProtocol = s.offProtocol := rfl

/-! ### `raiseError` sets `ERR` and `DONE` only -/

@[simp] theorem raiseError_S (e : ErrCode) (s : State) : (raiseError e s).S = s.S := rfl
@[simp] theorem raiseError_outLen (e : ErrCode) (s : State) : (raiseError e s).outLen = s.outLen := rfl
@[simp] theorem raiseError_pwdLen (e : ErrCode) (s : State) : (raiseError e s).pwdLen = s.pwdLen := rfl
@[simp] theorem raiseError_saltLen (e : ErrCode) (s : State) : (raiseError e s).saltLen = s.saltLen := rfl
@[simp] theorem raiseError_timeCost (e : ErrCode) (s : State) : (raiseError e s).timeCost = s.timeCost := rfl
@[simp] theorem raiseError_nRows (e : ErrCode) (s : State) : (raiseError e s).nRows = s.nRows := rfl
@[simp] theorem raiseError_nCols (e : ErrCode) (s : State) : (raiseError e s).nCols = s.nCols := rfl
@[simp] theorem raiseError_hdrLen (e : ErrCode) (s : State) : (raiseError e s).hdrLen = s.hdrLen := rfl
@[simp] theorem raiseError_row (e : ErrCode) (s : State) : (raiseError e s).row = s.row := rfl
@[simp] theorem raiseError_prev (e : ErrCode) (s : State) : (raiseError e s).prev = s.prev := rfl
@[simp] theorem raiseError_rowa (e : ErrCode) (s : State) : (raiseError e s).rowa = s.rowa := rfl
@[simp] theorem raiseError_stride (e : ErrCode) (s : State) : (raiseError e s).stride = s.stride := rfl
@[simp] theorem raiseError_window (e : ErrCode) (s : State) : (raiseError e s).window = s.window := rfl
@[simp] theorem raiseError_gap (e : ErrCode) (s : State) : (raiseError e s).gap = s.gap := rfl
@[simp] theorem raiseError_tau (e : ErrCode) (s : State) : (raiseError e s).tau = s.tau := rfl
@[simp] theorem raiseError_nBlk (e : ErrCode) (s : State) : (raiseError e s).nBlk = s.nBlk := rfl
@[simp] theorem raiseError_seq (e : ErrCode) (s : State) : (raiseError e s).seq = s.seq := rfl
@[simp] theorem raiseError_running (e : ErrCode) (s : State) : (raiseError e s).running = s.running := rfl
@[simp] theorem raiseError_done (e : ErrCode) (s : State) : (raiseError e s).done = true := rfl
@[simp] theorem raiseError_haz (e : ErrCode) (s : State) : (raiseError e s).haz = s.haz := rfl
@[simp] theorem raiseError_err (e : ErrCode) (s : State) : (raiseError e s).err = some e := rfl
@[simp] theorem raiseError_mem (e : ErrCode) (s : State) : (raiseError e s).mem = s.mem := rfl
@[simp] theorem raiseError_acc (e : ErrCode) (s : State) : (raiseError e s).acc = s.acc := rfl
@[simp] theorem raiseError_port (e : ErrCode) (s : State) : (raiseError e s).port = s.port := rfl
@[simp] theorem raiseError_resp (e : ErrCode) (s : State) : (raiseError e s).resp = s.resp := rfl
@[simp] theorem raiseError_freeCount (e : ErrCode) (s : State) : (raiseError e s).freeCount = s.freeCount := rfl
@[simp] theorem raiseError_offProtocol (e : ErrCode) (s : State) : (raiseError e s).offProtocol = s.offProtocol := rfl

/-! ### `clearStatus` clears `ERR`, `DONE`, `HAZ` only -/

@[simp] theorem clearStatus_S (s : State) : (clearStatus s).S = s.S := rfl
@[simp] theorem clearStatus_outLen (s : State) : (clearStatus s).outLen = s.outLen := rfl
@[simp] theorem clearStatus_pwdLen (s : State) : (clearStatus s).pwdLen = s.pwdLen := rfl
@[simp] theorem clearStatus_saltLen (s : State) : (clearStatus s).saltLen = s.saltLen := rfl
@[simp] theorem clearStatus_timeCost (s : State) : (clearStatus s).timeCost = s.timeCost := rfl
@[simp] theorem clearStatus_nRows (s : State) : (clearStatus s).nRows = s.nRows := rfl
@[simp] theorem clearStatus_nCols (s : State) : (clearStatus s).nCols = s.nCols := rfl
@[simp] theorem clearStatus_hdrLen (s : State) : (clearStatus s).hdrLen = s.hdrLen := rfl
@[simp] theorem clearStatus_row (s : State) : (clearStatus s).row = s.row := rfl
@[simp] theorem clearStatus_prev (s : State) : (clearStatus s).prev = s.prev := rfl
@[simp] theorem clearStatus_rowa (s : State) : (clearStatus s).rowa = s.rowa := rfl
@[simp] theorem clearStatus_stride (s : State) : (clearStatus s).stride = s.stride := rfl
@[simp] theorem clearStatus_window (s : State) : (clearStatus s).window = s.window := rfl
@[simp] theorem clearStatus_gap (s : State) : (clearStatus s).gap = s.gap := rfl
@[simp] theorem clearStatus_tau (s : State) : (clearStatus s).tau = s.tau := rfl
@[simp] theorem clearStatus_nBlk (s : State) : (clearStatus s).nBlk = s.nBlk := rfl
@[simp] theorem clearStatus_seq (s : State) : (clearStatus s).seq = s.seq := rfl
@[simp] theorem clearStatus_running (s : State) : (clearStatus s).running = s.running := rfl
@[simp] theorem clearStatus_done (s : State) : (clearStatus s).done = false := rfl
@[simp] theorem clearStatus_haz (s : State) : (clearStatus s).haz = false := rfl
@[simp] theorem clearStatus_err (s : State) : (clearStatus s).err = none := rfl
@[simp] theorem clearStatus_mem (s : State) : (clearStatus s).mem = s.mem := rfl
@[simp] theorem clearStatus_acc (s : State) : (clearStatus s).acc = s.acc := rfl
@[simp] theorem clearStatus_port (s : State) : (clearStatus s).port = s.port := rfl
@[simp] theorem clearStatus_resp (s : State) : (clearStatus s).resp = s.resp := rfl
@[simp] theorem clearStatus_freeCount (s : State) : (clearStatus s).freeCount = s.freeCount := rfl
@[simp] theorem clearStatus_offProtocol (s : State) : (clearStatus s).offProtocol = s.offProtocol := rfl

/-! ### `respond` sets the response only -/

@[simp] theorem respond_S (r : Response) (s : State) : (respond r s).S = s.S := rfl
@[simp] theorem respond_outLen (r : Response) (s : State) : (respond r s).outLen = s.outLen := rfl
@[simp] theorem respond_pwdLen (r : Response) (s : State) : (respond r s).pwdLen = s.pwdLen := rfl
@[simp] theorem respond_saltLen (r : Response) (s : State) : (respond r s).saltLen = s.saltLen := rfl
@[simp] theorem respond_timeCost (r : Response) (s : State) : (respond r s).timeCost = s.timeCost := rfl
@[simp] theorem respond_nRows (r : Response) (s : State) : (respond r s).nRows = s.nRows := rfl
@[simp] theorem respond_nCols (r : Response) (s : State) : (respond r s).nCols = s.nCols := rfl
@[simp] theorem respond_hdrLen (r : Response) (s : State) : (respond r s).hdrLen = s.hdrLen := rfl
@[simp] theorem respond_row (r : Response) (s : State) : (respond r s).row = s.row := rfl
@[simp] theorem respond_prev (r : Response) (s : State) : (respond r s).prev = s.prev := rfl
@[simp] theorem respond_rowa (r : Response) (s : State) : (respond r s).rowa = s.rowa := rfl
@[simp] theorem respond_stride (r : Response) (s : State) : (respond r s).stride = s.stride := rfl
@[simp] theorem respond_window (r : Response) (s : State) : (respond r s).window = s.window := rfl
@[simp] theorem respond_gap (r : Response) (s : State) : (respond r s).gap = s.gap := rfl
@[simp] theorem respond_tau (r : Response) (s : State) : (respond r s).tau = s.tau := rfl
@[simp] theorem respond_nBlk (r : Response) (s : State) : (respond r s).nBlk = s.nBlk := rfl
@[simp] theorem respond_seq (r : Response) (s : State) : (respond r s).seq = s.seq := rfl
@[simp] theorem respond_running (r : Response) (s : State) : (respond r s).running = s.running := rfl
@[simp] theorem respond_done (r : Response) (s : State) : (respond r s).done = s.done := rfl
@[simp] theorem respond_haz (r : Response) (s : State) : (respond r s).haz = s.haz := rfl
@[simp] theorem respond_err (r : Response) (s : State) : (respond r s).err = s.err := rfl
@[simp] theorem respond_mem (r : Response) (s : State) : (respond r s).mem = s.mem := rfl
@[simp] theorem respond_acc (r : Response) (s : State) : (respond r s).acc = s.acc := rfl
@[simp] theorem respond_port (r : Response) (s : State) : (respond r s).port = s.port := rfl
@[simp] theorem respond_resp (r : Response) (s : State) : (respond r s).resp = some r := rfl
@[simp] theorem respond_freeCount (r : Response) (s : State) : (respond r s).freeCount = s.freeCount := rfl
@[simp] theorem respond_offProtocol (r : Response) (s : State) : (respond r s).offProtocol = s.offProtocol := rfl

/-! ### `drawFree` counts one free value -/

@[simp] theorem drawFree_S (s : State) : (drawFree s).S = s.S := rfl
@[simp] theorem drawFree_outLen (s : State) : (drawFree s).outLen = s.outLen := rfl
@[simp] theorem drawFree_pwdLen (s : State) : (drawFree s).pwdLen = s.pwdLen := rfl
@[simp] theorem drawFree_saltLen (s : State) : (drawFree s).saltLen = s.saltLen := rfl
@[simp] theorem drawFree_timeCost (s : State) : (drawFree s).timeCost = s.timeCost := rfl
@[simp] theorem drawFree_nRows (s : State) : (drawFree s).nRows = s.nRows := rfl
@[simp] theorem drawFree_nCols (s : State) : (drawFree s).nCols = s.nCols := rfl
@[simp] theorem drawFree_hdrLen (s : State) : (drawFree s).hdrLen = s.hdrLen := rfl
@[simp] theorem drawFree_row (s : State) : (drawFree s).row = s.row := rfl
@[simp] theorem drawFree_prev (s : State) : (drawFree s).prev = s.prev := rfl
@[simp] theorem drawFree_rowa (s : State) : (drawFree s).rowa = s.rowa := rfl
@[simp] theorem drawFree_stride (s : State) : (drawFree s).stride = s.stride := rfl
@[simp] theorem drawFree_window (s : State) : (drawFree s).window = s.window := rfl
@[simp] theorem drawFree_gap (s : State) : (drawFree s).gap = s.gap := rfl
@[simp] theorem drawFree_tau (s : State) : (drawFree s).tau = s.tau := rfl
@[simp] theorem drawFree_nBlk (s : State) : (drawFree s).nBlk = s.nBlk := rfl
@[simp] theorem drawFree_seq (s : State) : (drawFree s).seq = s.seq := rfl
@[simp] theorem drawFree_running (s : State) : (drawFree s).running = s.running := rfl
@[simp] theorem drawFree_done (s : State) : (drawFree s).done = s.done := rfl
@[simp] theorem drawFree_haz (s : State) : (drawFree s).haz = s.haz := rfl
@[simp] theorem drawFree_err (s : State) : (drawFree s).err = s.err := rfl
@[simp] theorem drawFree_mem (s : State) : (drawFree s).mem = s.mem := rfl
@[simp] theorem drawFree_acc (s : State) : (drawFree s).acc = s.acc := rfl
@[simp] theorem drawFree_port (s : State) : (drawFree s).port = s.port := rfl
@[simp] theorem drawFree_resp (s : State) : (drawFree s).resp = s.resp := rfl
@[simp] theorem drawFree_freeCount (s : State) : (drawFree s).freeCount = s.freeCount + 1 := rfl
@[simp] theorem drawFree_offProtocol (s : State) : (drawFree s).offProtocol = s.offProtocol := rfl

/-! ### `storeWork` writes the Internal State and the storage only -/

@[simp] theorem storeWork_S (w : Work) (s : State) : (storeWork w s).S = w.S := rfl
@[simp] theorem storeWork_outLen (w : Work) (s : State) : (storeWork w s).outLen = s.outLen := rfl
@[simp] theorem storeWork_pwdLen (w : Work) (s : State) : (storeWork w s).pwdLen = s.pwdLen := rfl
@[simp] theorem storeWork_saltLen (w : Work) (s : State) : (storeWork w s).saltLen = s.saltLen := rfl
@[simp] theorem storeWork_timeCost (w : Work) (s : State) : (storeWork w s).timeCost = s.timeCost := rfl
@[simp] theorem storeWork_nRows (w : Work) (s : State) : (storeWork w s).nRows = s.nRows := rfl
@[simp] theorem storeWork_nCols (w : Work) (s : State) : (storeWork w s).nCols = s.nCols := rfl
@[simp] theorem storeWork_hdrLen (w : Work) (s : State) : (storeWork w s).hdrLen = s.hdrLen := rfl
@[simp] theorem storeWork_row (w : Work) (s : State) : (storeWork w s).row = s.row := rfl
@[simp] theorem storeWork_prev (w : Work) (s : State) : (storeWork w s).prev = s.prev := rfl
@[simp] theorem storeWork_rowa (w : Work) (s : State) : (storeWork w s).rowa = s.rowa := rfl
@[simp] theorem storeWork_stride (w : Work) (s : State) : (storeWork w s).stride = s.stride := rfl
@[simp] theorem storeWork_window (w : Work) (s : State) : (storeWork w s).window = s.window := rfl
@[simp] theorem storeWork_gap (w : Work) (s : State) : (storeWork w s).gap = s.gap := rfl
@[simp] theorem storeWork_tau (w : Work) (s : State) : (storeWork w s).tau = s.tau := rfl
@[simp] theorem storeWork_nBlk (w : Work) (s : State) : (storeWork w s).nBlk = s.nBlk := rfl
@[simp] theorem storeWork_seq (w : Work) (s : State) : (storeWork w s).seq = s.seq := rfl
@[simp] theorem storeWork_running (w : Work) (s : State) : (storeWork w s).running = s.running := rfl
@[simp] theorem storeWork_done (w : Work) (s : State) : (storeWork w s).done = s.done := rfl
@[simp] theorem storeWork_haz (w : Work) (s : State) : (storeWork w s).haz = s.haz := rfl
@[simp] theorem storeWork_err (w : Work) (s : State) : (storeWork w s).err = s.err := rfl
@[simp] theorem storeWork_mem (w : Work) (s : State) : (storeWork w s).mem = w.mem := rfl
@[simp] theorem storeWork_acc (w : Work) (s : State) : (storeWork w s).acc = s.acc := rfl
@[simp] theorem storeWork_port (w : Work) (s : State) : (storeWork w s).port = s.port := rfl
@[simp] theorem storeWork_resp (w : Work) (s : State) : (storeWork w s).resp = s.resp := rfl
@[simp] theorem storeWork_freeCount (w : Work) (s : State) : (storeWork w s).freeCount = s.freeCount := rfl
@[simp] theorem storeWork_offProtocol (w : Work) (s : State) : (storeWork w s).offProtocol = s.offProtocol := rfl

/-! ### `storeSched` writes the six registers of Setup only -/

@[simp] theorem storeSched_S (c : Sched) (s : State) : (storeSched c s).S = s.S := rfl
@[simp] theorem storeSched_outLen (c : Sched) (s : State) : (storeSched c s).outLen = s.outLen := rfl
@[simp] theorem storeSched_pwdLen (c : Sched) (s : State) : (storeSched c s).pwdLen = s.pwdLen := rfl
@[simp] theorem storeSched_saltLen (c : Sched) (s : State) : (storeSched c s).saltLen = s.saltLen := rfl
@[simp] theorem storeSched_timeCost (c : Sched) (s : State) : (storeSched c s).timeCost = s.timeCost := rfl
@[simp] theorem storeSched_nRows (c : Sched) (s : State) : (storeSched c s).nRows = s.nRows := rfl
@[simp] theorem storeSched_nCols (c : Sched) (s : State) : (storeSched c s).nCols = s.nCols := rfl
@[simp] theorem storeSched_hdrLen (c : Sched) (s : State) : (storeSched c s).hdrLen = s.hdrLen := rfl
@[simp] theorem storeSched_row (c : Sched) (s : State) : (storeSched c s).row = natReg c.row := rfl
@[simp] theorem storeSched_prev (c : Sched) (s : State) : (storeSched c s).prev = natReg c.prev := rfl
@[simp] theorem storeSched_rowa (c : Sched) (s : State) : (storeSched c s).rowa = natReg c.rowa := rfl
@[simp] theorem storeSched_stride (c : Sched) (s : State) : (storeSched c s).stride = intReg c.stride := rfl
@[simp] theorem storeSched_window (c : Sched) (s : State) : (storeSched c s).window = natReg c.window := rfl
@[simp] theorem storeSched_gap (c : Sched) (s : State) : (storeSched c s).gap = intReg c.gap := rfl
@[simp] theorem storeSched_tau (c : Sched) (s : State) : (storeSched c s).tau = s.tau := rfl
@[simp] theorem storeSched_nBlk (c : Sched) (s : State) : (storeSched c s).nBlk = s.nBlk := rfl
@[simp] theorem storeSched_seq (c : Sched) (s : State) : (storeSched c s).seq = s.seq := rfl
@[simp] theorem storeSched_running (c : Sched) (s : State) : (storeSched c s).running = s.running := rfl
@[simp] theorem storeSched_done (c : Sched) (s : State) : (storeSched c s).done = s.done := rfl
@[simp] theorem storeSched_haz (c : Sched) (s : State) : (storeSched c s).haz = s.haz := rfl
@[simp] theorem storeSched_err (c : Sched) (s : State) : (storeSched c s).err = s.err := rfl
@[simp] theorem storeSched_mem (c : Sched) (s : State) : (storeSched c s).mem = s.mem := rfl
@[simp] theorem storeSched_acc (c : Sched) (s : State) : (storeSched c s).acc = s.acc := rfl
@[simp] theorem storeSched_port (c : Sched) (s : State) : (storeSched c s).port = s.port := rfl
@[simp] theorem storeSched_resp (c : Sched) (s : State) : (storeSched c s).resp = s.resp := rfl
@[simp] theorem storeSched_freeCount (c : Sched) (s : State) : (storeSched c s).freeCount = s.freeCount := rfl
@[simp] theorem storeSched_offProtocol (c : Sched) (s : State) : (storeSched c s).offProtocol = s.offProtocol := rfl

/-! ### `storeTour` writes the five registers of Wandering only -/

@[simp] theorem storeTour_S (u : Tour) (s : State) : (storeTour u s).S = s.S := rfl
@[simp] theorem storeTour_outLen (u : Tour) (s : State) : (storeTour u s).outLen = s.outLen := rfl
@[simp] theorem storeTour_pwdLen (u : Tour) (s : State) : (storeTour u s).pwdLen = s.pwdLen := rfl
@[simp] theorem storeTour_saltLen (u : Tour) (s : State) : (storeTour u s).saltLen = s.saltLen := rfl
@[simp] theorem storeTour_timeCost (u : Tour) (s : State) : (storeTour u s).timeCost = s.timeCost := rfl
@[simp] theorem storeTour_nRows (u : Tour) (s : State) : (storeTour u s).nRows = s.nRows := rfl
@[simp] theorem storeTour_nCols (u : Tour) (s : State) : (storeTour u s).nCols = s.nCols := rfl
@[simp] theorem storeTour_hdrLen (u : Tour) (s : State) : (storeTour u s).hdrLen = s.hdrLen := rfl
@[simp] theorem storeTour_row (u : Tour) (s : State) : (storeTour u s).row = natReg u.row := rfl
@[simp] theorem storeTour_prev (u : Tour) (s : State) : (storeTour u s).prev = natReg u.prev := rfl
@[simp] theorem storeTour_rowa (u : Tour) (s : State) : (storeTour u s).rowa = natReg u.rowa := rfl
@[simp] theorem storeTour_stride (u : Tour) (s : State) : (storeTour u s).stride = intReg u.stride := rfl
@[simp] theorem storeTour_window (u : Tour) (s : State) : (storeTour u s).window = s.window := rfl
@[simp] theorem storeTour_gap (u : Tour) (s : State) : (storeTour u s).gap = s.gap := rfl
@[simp] theorem storeTour_tau (u : Tour) (s : State) : (storeTour u s).tau = natReg u.tau := rfl
@[simp] theorem storeTour_nBlk (u : Tour) (s : State) : (storeTour u s).nBlk = s.nBlk := rfl
@[simp] theorem storeTour_seq (u : Tour) (s : State) : (storeTour u s).seq = s.seq := rfl
@[simp] theorem storeTour_running (u : Tour) (s : State) : (storeTour u s).running = s.running := rfl
@[simp] theorem storeTour_done (u : Tour) (s : State) : (storeTour u s).done = s.done := rfl
@[simp] theorem storeTour_haz (u : Tour) (s : State) : (storeTour u s).haz = s.haz := rfl
@[simp] theorem storeTour_err (u : Tour) (s : State) : (storeTour u s).err = s.err := rfl
@[simp] theorem storeTour_mem (u : Tour) (s : State) : (storeTour u s).mem = s.mem := rfl
@[simp] theorem storeTour_acc (u : Tour) (s : State) : (storeTour u s).acc = s.acc := rfl
@[simp] theorem storeTour_port (u : Tour) (s : State) : (storeTour u s).port = s.port := rfl
@[simp] theorem storeTour_resp (u : Tour) (s : State) : (storeTour u s).resp = s.resp := rfl
@[simp] theorem storeTour_freeCount (u : Tour) (s : State) : (storeTour u s).freeCount = s.freeCount := rfl
@[simp] theorem storeTour_offProtocol (u : Tour) (s : State) : (storeTour u s).offProtocol = s.offProtocol := rfl

/-! ### `storeDerived` writes what a derivation leaves -/

@[simp] theorem storeDerived_S (d : Derived) (s : State) : (storeDerived d s).S = d.work.S := rfl
@[simp] theorem storeDerived_outLen (d : Derived) (s : State) : (storeDerived d s).outLen = s.outLen := rfl
@[simp] theorem storeDerived_pwdLen (d : Derived) (s : State) : (storeDerived d s).pwdLen = s.pwdLen := rfl
@[simp] theorem storeDerived_saltLen (d : Derived) (s : State) : (storeDerived d s).saltLen = s.saltLen := rfl
@[simp] theorem storeDerived_timeCost (d : Derived) (s : State) : (storeDerived d s).timeCost = s.timeCost := rfl
@[simp] theorem storeDerived_nRows (d : Derived) (s : State) : (storeDerived d s).nRows = s.nRows := rfl
@[simp] theorem storeDerived_nCols (d : Derived) (s : State) : (storeDerived d s).nCols = s.nCols := rfl
@[simp] theorem storeDerived_hdrLen (d : Derived) (s : State) : (storeDerived d s).hdrLen = s.hdrLen := rfl
@[simp] theorem storeDerived_row (d : Derived) (s : State) : (storeDerived d s).row = natReg d.tour.row := rfl
@[simp] theorem storeDerived_prev (d : Derived) (s : State) : (storeDerived d s).prev = natReg d.tour.prev := rfl
@[simp] theorem storeDerived_rowa (d : Derived) (s : State) : (storeDerived d s).rowa = natReg d.tour.rowa := rfl
@[simp] theorem storeDerived_stride (d : Derived) (s : State) : (storeDerived d s).stride = intReg d.tour.stride := rfl
@[simp] theorem storeDerived_window (d : Derived) (s : State) : (storeDerived d s).window = natReg d.sched.window := rfl
@[simp] theorem storeDerived_gap (d : Derived) (s : State) : (storeDerived d s).gap = intReg d.sched.gap := rfl
@[simp] theorem storeDerived_tau (d : Derived) (s : State) : (storeDerived d s).tau = natReg d.tour.tau := rfl
@[simp] theorem storeDerived_nBlk (d : Derived) (s : State) : (storeDerived d s).nBlk = natReg d.nBlk := rfl
@[simp] theorem storeDerived_seq (d : Derived) (s : State) : (storeDerived d s).seq = s.seq := rfl
@[simp] theorem storeDerived_running (d : Derived) (s : State) : (storeDerived d s).running = s.running := rfl
@[simp] theorem storeDerived_done (d : Derived) (s : State) : (storeDerived d s).done = s.done := rfl
@[simp] theorem storeDerived_haz (d : Derived) (s : State) : (storeDerived d s).haz = s.haz := rfl
@[simp] theorem storeDerived_err (d : Derived) (s : State) : (storeDerived d s).err = s.err := rfl
@[simp] theorem storeDerived_mem (d : Derived) (s : State) : (storeDerived d s).mem = d.work.mem := rfl
@[simp] theorem storeDerived_acc (d : Derived) (s : State) : (storeDerived d s).acc = s.acc := rfl
@[simp] theorem storeDerived_port (d : Derived) (s : State) : (storeDerived d s).port = s.port := rfl
@[simp] theorem storeDerived_resp (d : Derived) (s : State) : (storeDerived d s).resp = s.resp := rfl
@[simp] theorem storeDerived_freeCount (d : Derived) (s : State) : (storeDerived d s).freeCount = s.freeCount := rfl
@[simp] theorem storeDerived_offProtocol (d : Derived) (s : State) : (storeDerived d s).offProtocol = s.offProtocol := rfl

/-! ### `resetState` gives every field of the CORE its reset value -/

@[simp] theorem resetState_S (s : State) : (resetState s).S = State.reset.S := rfl
@[simp] theorem resetState_outLen (s : State) : (resetState s).outLen = State.reset.outLen := rfl
@[simp] theorem resetState_pwdLen (s : State) : (resetState s).pwdLen = State.reset.pwdLen := rfl
@[simp] theorem resetState_saltLen (s : State) : (resetState s).saltLen = State.reset.saltLen := rfl
@[simp] theorem resetState_timeCost (s : State) : (resetState s).timeCost = State.reset.timeCost := rfl
@[simp] theorem resetState_nRows (s : State) : (resetState s).nRows = State.reset.nRows := rfl
@[simp] theorem resetState_nCols (s : State) : (resetState s).nCols = State.reset.nCols := rfl
@[simp] theorem resetState_hdrLen (s : State) : (resetState s).hdrLen = State.reset.hdrLen := rfl
@[simp] theorem resetState_row (s : State) : (resetState s).row = State.reset.row := rfl
@[simp] theorem resetState_prev (s : State) : (resetState s).prev = State.reset.prev := rfl
@[simp] theorem resetState_rowa (s : State) : (resetState s).rowa = State.reset.rowa := rfl
@[simp] theorem resetState_stride (s : State) : (resetState s).stride = State.reset.stride := rfl
@[simp] theorem resetState_window (s : State) : (resetState s).window = State.reset.window := rfl
@[simp] theorem resetState_gap (s : State) : (resetState s).gap = State.reset.gap := rfl
@[simp] theorem resetState_tau (s : State) : (resetState s).tau = State.reset.tau := rfl
@[simp] theorem resetState_nBlk (s : State) : (resetState s).nBlk = State.reset.nBlk := rfl
@[simp] theorem resetState_seq (s : State) : (resetState s).seq = State.reset.seq := rfl
@[simp] theorem resetState_running (s : State) : (resetState s).running = State.reset.running := rfl
@[simp] theorem resetState_done (s : State) : (resetState s).done = State.reset.done := rfl
@[simp] theorem resetState_haz (s : State) : (resetState s).haz = State.reset.haz := rfl
@[simp] theorem resetState_err (s : State) : (resetState s).err = State.reset.err := rfl
@[simp] theorem resetState_mem (s : State) : (resetState s).mem = State.reset.mem := rfl
@[simp] theorem resetState_acc (s : State) : (resetState s).acc = State.reset.acc := rfl
@[simp] theorem resetState_port (s : State) : (resetState s).port = s.port := rfl
@[simp] theorem resetState_resp (s : State) : (resetState s).resp = s.resp := rfl
@[simp] theorem resetState_freeCount (s : State) : (resetState s).freeCount = s.freeCount := rfl
@[simp] theorem resetState_offProtocol (s : State) : (resetState s).offProtocol = s.offProtocol := rfl

/-! ### `withHostSide` replaces the host's side only -/

@[simp] theorem withHostSide_S (h : HostSide) (s : State) : (withHostSide h s).S = s.S := rfl
@[simp] theorem withHostSide_outLen (h : HostSide) (s : State) : (withHostSide h s).outLen = s.outLen := rfl
@[simp] theorem withHostSide_pwdLen (h : HostSide) (s : State) : (withHostSide h s).pwdLen = s.pwdLen := rfl
@[simp] theorem withHostSide_saltLen (h : HostSide) (s : State) : (withHostSide h s).saltLen = s.saltLen := rfl
@[simp] theorem withHostSide_timeCost (h : HostSide) (s : State) : (withHostSide h s).timeCost = s.timeCost := rfl
@[simp] theorem withHostSide_nRows (h : HostSide) (s : State) : (withHostSide h s).nRows = s.nRows := rfl
@[simp] theorem withHostSide_nCols (h : HostSide) (s : State) : (withHostSide h s).nCols = s.nCols := rfl
@[simp] theorem withHostSide_hdrLen (h : HostSide) (s : State) : (withHostSide h s).hdrLen = s.hdrLen := rfl
@[simp] theorem withHostSide_row (h : HostSide) (s : State) : (withHostSide h s).row = s.row := rfl
@[simp] theorem withHostSide_prev (h : HostSide) (s : State) : (withHostSide h s).prev = s.prev := rfl
@[simp] theorem withHostSide_rowa (h : HostSide) (s : State) : (withHostSide h s).rowa = s.rowa := rfl
@[simp] theorem withHostSide_stride (h : HostSide) (s : State) : (withHostSide h s).stride = s.stride := rfl
@[simp] theorem withHostSide_window (h : HostSide) (s : State) : (withHostSide h s).window = s.window := rfl
@[simp] theorem withHostSide_gap (h : HostSide) (s : State) : (withHostSide h s).gap = s.gap := rfl
@[simp] theorem withHostSide_tau (h : HostSide) (s : State) : (withHostSide h s).tau = s.tau := rfl
@[simp] theorem withHostSide_nBlk (h : HostSide) (s : State) : (withHostSide h s).nBlk = s.nBlk := rfl
@[simp] theorem withHostSide_seq (h : HostSide) (s : State) : (withHostSide h s).seq = s.seq := rfl
@[simp] theorem withHostSide_running (h : HostSide) (s : State) : (withHostSide h s).running = s.running := rfl
@[simp] theorem withHostSide_done (h : HostSide) (s : State) : (withHostSide h s).done = s.done := rfl
@[simp] theorem withHostSide_haz (h : HostSide) (s : State) : (withHostSide h s).haz = h.haz := rfl
@[simp] theorem withHostSide_err (h : HostSide) (s : State) : (withHostSide h s).err = s.err := rfl
@[simp] theorem withHostSide_mem (h : HostSide) (s : State) : (withHostSide h s).mem = s.mem := rfl
@[simp] theorem withHostSide_acc (h : HostSide) (s : State) : (withHostSide h s).acc = s.acc := rfl
@[simp] theorem withHostSide_port (h : HostSide) (s : State) : (withHostSide h s).port = h.port := rfl
@[simp] theorem withHostSide_resp (h : HostSide) (s : State) : (withHostSide h s).resp = h.resp := rfl
@[simp] theorem withHostSide_freeCount (h : HostSide) (s : State) : (withHostSide h s).freeCount = h.freeCount := rfl
@[simp] theorem withHostSide_offProtocol (h : HostSide) (s : State) : (withHostSide h s).offProtocol = h.offProtocol := rfl
@[simp] theorem busy_withHostSide (h : HostSide) (s : State) : busy (withHostSide h s) = busy s := rfl

@[simp] theorem onNext_next (f : State → State) (s : State) : onNext f (.next s) = .next (f s) := rfl
@[simp] theorem onNext_fault (f : State → State) (e : Fault) : onNext f (.fault e) = .fault e := rfl
@[simp] theorem onNext_refused (f : State → State) (r : Refusal) : onNext f (.refused r) = .refused r := rfl

/-! ### `BUSY` after each update -/

@[simp] theorem busy_setHaz (s : State) : busy (setHaz s) = busy s := rfl
@[simp] theorem busy_markRun (s : State) : busy (markRun s) = busy s := rfl
@[simp] theorem busy_start (i : Instr) (s : State) : busy (start i s) = true := rfl
@[simp] theorem busy_complete (s : State) : busy (complete s) = false := rfl
@[simp] theorem busy_raiseError (e : ErrCode) (s : State) : busy (raiseError e s) = busy s := rfl
@[simp] theorem busy_clearStatus (s : State) : busy (clearStatus s) = busy s := rfl
@[simp] theorem busy_respond (r : Response) (s : State) : busy (respond r s) = busy s := rfl
@[simp] theorem busy_drawFree (s : State) : busy (drawFree s) = busy s := rfl
@[simp] theorem busy_storeWork (w : Work) (s : State) : busy (storeWork w s) = busy s := rfl
@[simp] theorem busy_storeSched (c : Sched) (s : State) : busy (storeSched c s) = busy s := rfl
@[simp] theorem busy_storeTour (u : Tour) (s : State) : busy (storeTour u s) = busy s := rfl
@[simp] theorem busy_storeDerived (d : Derived) (s : State) : busy (storeDerived d s) = busy s := rfl
@[simp] theorem busy_resetState (s : State) : busy (resetState s) = false := rfl

end Sys2Proof.Machine
end

