-- ==== Sys2Proof/Laws/Memory.lean ====
section
/-! SUPPORT. What the storage operations do, said once each: a read after a write, the canonical form, and when a
read of several bytes, words or a block succeeds. -/

namespace Sys2Proof.Machine

/-! ### One byte -/

@[simp] theorem memGet?_nil (a : Nat) : memGet? [] a = none := rfl

theorem memGet?_cons (c : Host.Cell) (m : Memory) (a : Nat) :
    memGet? (c :: m) a = if a = c.1 then some c.2 else memGet? m a := by
  obtain ⟨k, b⟩ := c
  by_cases h : a = k
  · subst h; simp [memGet?]
  · simp [memGet?, List.lookup, beq_eq_false_iff_ne.2 h, h]

theorem memGet?_append (m n : Memory) (a : Nat) : memGet? (m ++ n) a = (memGet? m a).or (memGet? n a) := by
  induction m with
  | nil => simp
  | cons c m ih =>
    rw [List.cons_append, memGet?_cons, memGet?_cons, ih]
    split <;> simp

theorem memGet?_filter (p : Nat → Bool) (m : Memory) (a : Nat) :
    memGet? (m.filter (fun c => p c.1)) a = if p a then memGet? m a else none := by
  induction m with
  | nil => simp
  | cons c m ih =>
    rw [List.filter_cons, memGet?_cons]
    by_cases hc : p c.1 = true
    · rw [if_pos hc, memGet?_cons, ih]
      by_cases ha : a = c.1
      · simp [ha, hc]
      · simp [ha]
    · rw [if_neg hc, ih]
      by_cases ha : a = c.1
      · simp [ha, hc]
      · simp [ha]

theorem memGet?_cellsFrom (base : Nat) (bs : List Byte) (a : Nat) :
    memGet? (cellsFrom base bs) a = if base ≤ a then bs[a - base]? else none := by
  induction bs generalizing base with
  | nil => simp [cellsFrom]
  | cons b bs ih =>
    rw [cellsFrom, memGet?_cons, ih]
    rcases Nat.lt_trichotomy a base with h | h | h
    · rw [if_neg (by omega), if_neg (by omega), if_neg (by omega)]
    · subst h; simp
    · rw [if_neg (by omega), if_pos (by omega), if_pos (by omega)]
      have : a - base = a - (base + 1) + 1 := by omega
      rw [this, List.getElem?_cons_succ]

/-- A read after a write: the bytes written inside, the old ones outside (R39). -/
theorem memGet?_memWrite (m : Memory) (base : Nat) (bs : List Byte) (a : Nat) :
    memGet? (memWrite m base bs) a =
      if base ≤ a ∧ a < base + bs.length then bs[a - base]? else memGet? m a := by
  rw [memWrite, memGet?_append, memGet?_append, memGet?_filter (fun k => decide (k < base)),
    memGet?_filter (fun k => decide (base + bs.length ≤ k)), memGet?_cellsFrom]
  by_cases h1 : a < base
  · rw [if_neg (by omega : ¬ (base ≤ a ∧ a < base + bs.length))]
    simp [h1, show ¬ base ≤ a by omega, show ¬ base + bs.length ≤ a by omega]
  · by_cases h2 : a < base + bs.length
    · rw [if_pos (⟨by omega, h2⟩ : base ≤ a ∧ a < base + bs.length)]
      simp [h1, show base ≤ a by omega, show ¬ base + bs.length ≤ a by omega]
    · have h3 : bs[a - base]? = none := List.getElem?_eq_none (by omega)
      rw [if_neg (by omega : ¬ (base ≤ a ∧ a < base + bs.length))]
      simp [h1, show base ≤ a by omega, show base + bs.length ≤ a by omega, h3]

/-- A write leaves every byte outside it alone. -/
theorem memGet?_memWrite_outside {m : Memory} {base : Nat} {bs : List Byte} {a : Nat}
    (h : a < base ∨ base + bs.length ≤ a) : memGet? (memWrite m base bs) a = memGet? m a := by
  rw [memGet?_memWrite, if_neg (by omega)]

/-- A write defines every byte it covers. -/
theorem memGet?_memWrite_inside {m : Memory} {base : Nat} {bs : List Byte} {k : Nat} (h : k < bs.length) :
    memGet? (memWrite m base bs) (base + k) = some bs[k] := by
  rw [memGet?_memWrite, if_pos (by omega)]
  simp [h]

/-- A byte that holds a value still does after any write. -/
theorem memGet?_memWrite_isSome {m : Memory} {base : Nat} {bs : List Byte} {a : Nat}
    (h : (memGet? m a).isSome) : (memGet? (memWrite m base bs) a).isSome := by
  rw [memGet?_memWrite]
  split
  next hb => simp [List.getElem?_eq_getElem (show a - base < bs.length by omega)]
  next => exact h

/-! ### The canonical form -/

theorem mem_cellsFrom {base : Nat} {bs : List Byte} {c : Host.Cell} (h : c ∈ cellsFrom base bs) :
    base ≤ c.1 ∧ c.1 < base + bs.length := by
  induction bs generalizing base with
  | nil => simp [cellsFrom] at h
  | cons b bs ih =>
    rw [cellsFrom, List.mem_cons] at h
    rcases h with rfl | h
    · simp
    · have := ih h
      simp only [List.length_cons]
      omega

theorem cellsFrom_wf (base : Nat) (bs : List Byte) : Memory.wf (cellsFrom base bs) := by
  induction bs generalizing base with
  | nil => exact List.Pairwise.nil
  | cons b bs ih => exact List.Pairwise.cons (fun c hc => (mem_cellsFrom hc).1) (ih _)

/-- Every entry after a write was there before or lies in the bytes written. -/
theorem mem_memWrite {m : Memory} {base : Nat} {bs : List Byte} {c : Host.Cell} (h : c ∈ memWrite m base bs) :
    (c ∈ m ∧ (c.1 < base ∨ base + bs.length ≤ c.1)) ∨ (base ≤ c.1 ∧ c.1 < base + bs.length) := by
  rw [memWrite, List.mem_append, List.mem_append, List.mem_filter, List.mem_filter] at h
  rcases h with h | h | h
  · exact .inl ⟨h.1, .inl (by simpa using h.2)⟩
  · exact .inr (mem_cellsFrom h)
  · exact .inl ⟨h.1, .inr (by simpa using h.2)⟩

/-- Every memory operation writes through `memWrite`, which keeps the canonical form. -/
theorem memWrite_wf {m : Memory} (h : Memory.wf m) (base : Nat) (bs : List Byte) :
    Memory.wf (memWrite m base bs) := by
  refine List.pairwise_append.2 ⟨h.filter _, List.pairwise_append.2 ⟨cellsFrom_wf _ _, h.filter _, ?_⟩, ?_⟩
  · intro c hc d hd
    have h1 := mem_cellsFrom hc
    have h2 : base + bs.length ≤ d.1 := by simpa using (List.mem_filter.1 hd).2
    show c.1 < d.1
    omega
  · intro c hc d hd
    have h1 : c.1 < base := by simpa using (List.mem_filter.1 hc).2
    show c.1 < d.1
    rcases List.mem_append.1 hd with hd | hd
    · have h2 := mem_cellsFrom hd
      omega
    · have h2 : base + bs.length ≤ d.1 := by simpa using (List.mem_filter.1 hd).2
      omega

theorem writeWords_wf {m : Memory} (h : Memory.wf m) (a : Nat) (ws : List Word) : Memory.wf (writeWords m a ws) :=
  memWrite_wf h _ _

theorem writeBlock_wf {m : Memory} (h : Memory.wf m) (C row col : Nat) (blk : Vector Word 12) :
    Memory.wf (writeBlock m C row col blk) := memWrite_wf h _ _

theorem writeBuf_wf {m : Memory} (h : Memory.wf m) (b : Buf) (bs : List Byte) : Memory.wf (writeBuf m b bs) :=
  memWrite_wf h _ _

theorem padProc_wf {m : Memory} (h : Memory.wf m) (outLen : Word) (pwd salt : List Byte) (t R C : Word) :
    Memory.wf (padProc outLen pwd salt t R C m) := memWrite_wf h _ _

theorem reset_mem_wf : Memory.wf State.reset.mem := List.Pairwise.nil

/-! ### Several bytes -/

/-- A read of `n` bytes answers exactly the bytes held. -/
theorem readBytes_eq_ok {m : Memory} {a n : Nat} {bs : List Byte} :
    readBytes m a n = .ok bs ↔ bs.length = n ∧ ∀ k, k < n → memGet? m (a + k) = bs[k]? := by
  induction n generalizing a bs with
  | zero =>
    simp only [readBytes, Except.ok.injEq]
    constructor
    · rintro rfl; simp
    · rintro ⟨h, -⟩; exact (List.length_eq_zero_iff.1 h).symm
  | succ n ih =>
    rw [readBytes]
    cases hb : memGet? m a with
    | none =>
      simp only [reduceCtorEq, false_iff, not_and]
      intro hl hk
      have := hk 0 (by omega)
      rw [Nat.add_zero, hb, List.getElem?_eq_getElem (by omega)] at this
      cases this
    | some b =>
      cases hr : readBytes m (a + 1) n with
      | error f =>
        simp only [reduceCtorEq, false_iff, not_and]
        intro hl hk
        obtain ⟨c, cs, rfl⟩ : ∃ c cs, bs = c :: cs := by
          cases bs with
          | nil => simp at hl
          | cons c cs => exact ⟨c, cs, rfl⟩
        have : readBytes m (a + 1) n = .ok cs := ih.2 ⟨by simpa using hl, fun k hk' => by
          have := hk (k + 1) (by omega)
          rw [List.getElem?_cons_succ] at this
          rwa [show a + 1 + k = a + (k + 1) by omega]⟩
        rw [hr] at this
        cases this
      | ok cs =>
        obtain ⟨hl, hcs⟩ := ih.1 hr
        simp only [Except.ok.injEq]
        constructor
        · rintro rfl
          refine ⟨by simp [hl], fun k hk => ?_⟩
          cases k with
          | zero => simpa using hb
          | succ k =>
            rw [List.getElem?_cons_succ, ← hcs k (by omega)]
            congr 1
            omega
        · rintro ⟨hl', hk⟩
          cases bs with
          | nil => simp at hl'
          | cons d ds =>
            have h0 := hk 0 (by omega)
            rw [Nat.add_zero, hb] at h0
            simp only [List.getElem?_cons_zero, Option.some.injEq] at h0
            subst h0
            congr 1
            refine List.ext_getElem? fun k => ?_
            by_cases hkn : k < n
            · rw [← hcs k hkn]
              have := hk (k + 1) (by omega)
              rw [List.getElem?_cons_succ] at this
              rw [← this]
              congr 1
              omega
            · have hl'' : ds.length = n := by simpa using hl'
              rw [List.getElem?_eq_none (by omega), List.getElem?_eq_none (by omega)]

/-- A read of `n` bytes faults only at a byte that holds no value. -/
theorem readBytes_eq_error {m : Memory} {a n : Nat} {f : Fault} (h : readBytes m a n = .error f) :
    ∃ k, k < n ∧ f = .noValue (a + k) ∧ memGet? m (a + k) = none := by
  induction n generalizing a with
  | zero => simp [readBytes] at h
  | succ n ih =>
    rw [readBytes] at h
    cases hb : memGet? m a with
    | none =>
      rw [hb] at h
      simp only [Except.error.injEq] at h
      exact ⟨0, by omega, h.symm, hb⟩
    | some b =>
      cases hr : readBytes m (a + 1) n with
      | error g =>
        rw [hb, hr] at h
        simp only [Except.error.injEq] at h
        subst h
        obtain ⟨k, hk, rfl, hn⟩ := ih hr
        exact ⟨k + 1, by omega, by congr 1; omega, by rwa [show a + (k + 1) = a + 1 + k by omega]⟩
      | ok cs =>
        rw [hb, hr] at h
        simp at h

/-- A read of `n` bytes that are all held answers. -/
theorem readBytes_of_held {m : Memory} {a n : Nat} (h : ∀ k, k < n → (memGet? m (a + k)).isSome) :
    ∃ bs, readBytes m a n = .ok bs := by
  cases hr : readBytes m a n with
  | ok bs => exact ⟨bs, rfl⟩
  | error f =>
    obtain ⟨k, hk, -, hn⟩ := readBytes_eq_error hr
    have := h k hk
    simp [hn] at this

/-- A read depends on the bytes it covers only. -/
theorem readBytes_congr {m m' : Memory} {a n : Nat} (h : ∀ k, k < n → memGet? m (a + k) = memGet? m' (a + k)) :
    readBytes m a n = readBytes m' a n := by
  induction n generalizing a with
  | zero => rfl
  | succ n ih =>
    have h0 : memGet? m a = memGet? m' a := h 0 (by omega)
    have h1 : readBytes m (a + 1) n = readBytes m' (a + 1) n := ih fun k hk => by
      have := h (k + 1) (by omega)
      rwa [show a + 1 + k = a + (k + 1) by omega]
    rw [readBytes, readBytes, h0, h1]

/-- Reading back the bytes just written. -/
theorem readBytes_memWrite (m : Memory) (base : Nat) (bs : List Byte) :
    readBytes (memWrite m base bs) base bs.length = .ok bs :=
  readBytes_eq_ok.2 ⟨rfl, fun k hk => by rw [memGet?_memWrite_inside hk, List.getElem?_eq_getElem hk]⟩

end Sys2Proof.Machine
end

