-- ==== Sys2Proof/Laws/Words.lean ====
section
/-! SUPPORT. Byte order: words and their little-endian bytes, and what reads and writes of words and blocks do. -/

namespace Sys2Proof.Machine

/-! ### `LE64` and `WordLE` -/

@[simp] theorem length_le64 (w : Word) : (le64 w).length = 8 := rfl

theorem getElem?_le64 (w : Word) {i : Nat} (h : i < 8) : (le64 w)[i]? = some (byteOf w i) := by
  match i, h with
  | 0, _ | 1, _ | 2, _ | 3, _ | 4, _ | 5, _ | 6, _ | 7, _ => rfl

theorem leNat_le64 (w : Word) : leNat (le64 w) = w.toNat := by
  have h := w.isLt
  simp only [le64, leNat, byteOf, BitVec.toNat_ofNat, Nat.reducePow]
  omega

/-- `WordLE` inverts `LE64` (R11). -/
@[simp] theorem wordLE_le64 (w : Word) : wordLE (le64 w) = w := by
  rw [wordLE, leNat_le64, BitVec.ofNat_toNat, BitVec.setWidth_eq]

/-- Two words with the same eight bytes are the same word. -/
theorem word_eq_of_bytes {v w : Word} (h : ∀ i, i < 8 → byteOf v i = byteOf w i) : v = w := by
  rw [← wordLE_le64 v, ← wordLE_le64 w]
  congr 1
  simp only [le64, h 0 (by decide), h 1 (by decide), h 2 (by decide), h 3 (by decide), h 4 (by decide),
    h 5 (by decide), h 6 (by decide), h 7 (by decide)]

/-- `LE64` inverts `WordLE` on eight bytes (R11). -/
theorem le64_wordLE {bs : List Byte} (h : bs.length = 8) : le64 (wordLE bs) = bs := by
  match bs, h with
  | [b0, b1, b2, b3, b4, b5, b6, b7], _ =>
    have h0 := b0.isLt
    have h1 := b1.isLt
    have h2 := b2.isLt
    have h3 := b3.isLt
    have h4 := b4.isLt
    have h5 := b5.isLt
    have h6 := b6.isLt
    have h7 := b7.isLt
    simp only [le64, byteOf, wordLE, leNat, List.cons.injEq, and_true, ← BitVec.toNat_inj, BitVec.toNat_ofNat,
      Nat.reducePow]
    omega

@[simp] theorem length_le64s (ws : List Word) : (le64s ws).length = 8 * ws.length := by
  induction ws with
  | nil => rfl
  | cons w ws ih =>
    rw [le64s, List.flatMap_cons, List.length_append, length_le64, List.length_cons]
    have : (List.flatMap le64 ws).length = 8 * ws.length := ih
    omega

/-- Byte `8k + i` of a list of words is byte `i` of word `k` (R40). -/
theorem getElem?_le64s {ws : List Word} {k i : Nat} (hk : k < ws.length) (hi : i < 8) :
    (le64s ws)[8 * k + i]? = some (byteOf ws[k] i) := by
  induction ws generalizing k with
  | nil => simp at hk
  | cons w ws ih =>
    rw [le64s, List.flatMap_cons]
    cases k with
    | zero => rw [List.getElem?_append_left (by simp; omega)]; simpa using getElem?_le64 w hi
    | succ k =>
      rw [List.getElem?_append_right (by simp; omega)]
      have : 8 * (k + 1) + i - (le64 w).length = 8 * k + i := by simp; omega
      rw [this]
      exact ih (by simpa using hk)

/-! ### Words in storage -/

/-- A word read is the word whose bytes are held. -/
theorem readWord_eq_ok {m : Memory} {a : Nat} {w : Word} :
    readWord m a = .ok w ↔ ∀ i, i < 8 → memGet? m (a + i) = some (byteOf w i) := by
  rw [readWord]
  cases hr : readBytes m a 8 with
  | error f =>
    simp only [reduceCtorEq, false_iff, not_forall]
    obtain ⟨k, hk, -, hn⟩ := readBytes_eq_error hr
    exact ⟨k, hk, by simp [hn]⟩
  | ok bs =>
    obtain ⟨hl, hb⟩ := readBytes_eq_ok.1 hr
    simp only [Except.ok.injEq]
    constructor
    · rintro rfl i hi
      rw [hb i hi, ← getElem?_le64 _ hi, le64_wordLE hl]
    · intro h
      refine word_eq_of_bytes fun i hi => ?_
      have h1 := h i hi
      rw [hb i hi] at h1
      have h2 := getElem?_le64 (wordLE bs) hi
      rw [le64_wordLE hl, h1] at h2
      exact (Option.some.inj h2).symm

theorem readWord_eq_error {m : Memory} {a : Nat} {f : Fault} (h : readWord m a = .error f) :
    ∃ k, k < 8 ∧ f = .noValue (a + k) ∧ memGet? m (a + k) = none := by
  rw [readWord] at h
  cases hr : readBytes m a 8 with
  | ok bs => rw [hr] at h; simp at h
  | error g =>
    rw [hr] at h
    simp only [Except.error.injEq] at h
    subst h
    exact readBytes_eq_error hr

/-- Words read are the words whose bytes are held (R40). -/
theorem readWords_eq_ok {m : Memory} {a n : Nat} {v : Vector Word n} :
    readWords m a n = .ok v ↔
      ∀ k (h : k < n), ∀ i, i < 8 → memGet? m (a + 8 * k + i) = some (byteOf v[k] i) := by
  induction n with
  | zero =>
    simp only [readWords, Except.ok.injEq, Nat.not_lt_zero, IsEmpty.forall_iff, implies_true, iff_true]
    exact Vector.ext fun i h => absurd h (Nat.not_lt_zero i)
  | succ n ih =>
    rw [readWords]
    cases hr : readWords m a n with
    | error f =>
      simp only [reduceCtorEq, false_iff]
      intro h
      have : readWords m a n = .ok v.pop := ih.2 fun k hk i hi => by
        rw [Vector.getElem_pop]
        exact h k (by omega) i hi
      rw [hr] at this
      cases this
    | ok ws =>
      have hws := ih.1 hr
      cases hw : readWord m (a + 8 * n) with
      | error f =>
        simp only [reduceCtorEq, false_iff]
        intro h
        have : readWord m (a + 8 * n) = .ok (v[n]'(by omega)) := readWord_eq_ok.2 fun i hi => h n (by omega) i hi
        rw [hw] at this
        cases this
      | ok w =>
        have hw' := readWord_eq_ok.1 hw
        simp only [Except.ok.injEq]
        constructor
        · rintro rfl k hk i hi
          rcases Nat.lt_or_ge k n with hkn | hkn
          · rw [Vector.getElem_push_lt hkn]
            exact hws k hkn i hi
          · obtain rfl : k = n := by omega
            rw [Vector.getElem_push_eq]
            exact hw' i hi
        · intro h
          refine Vector.ext fun k hk => ?_
          rcases Nat.lt_or_ge k n with hkn | hkn
          · rw [Vector.getElem_push_lt hkn]
            refine word_eq_of_bytes fun i hi => ?_
            have h1 := h k hk i hi
            rw [hws k hkn i hi] at h1
            exact Option.some.inj h1
          · obtain rfl : k = n := by omega
            rw [Vector.getElem_push_eq]
            refine word_eq_of_bytes fun i hi => ?_
            have h1 := h k hk i hi
            rw [hw' i hi] at h1
            exact Option.some.inj h1

theorem readWords_eq_error {m : Memory} {a n : Nat} {f : Fault} (h : readWords m a n = .error f) :
    ∃ k, k < 8 * n ∧ f = .noValue (a + k) ∧ memGet? m (a + k) = none := by
  induction n with
  | zero => simp [readWords] at h
  | succ n ih =>
    rw [readWords] at h
    cases hr : readWords m a n with
    | error g =>
      rw [hr] at h
      simp only [Except.error.injEq] at h
      subst h
      obtain ⟨k, hk, rfl, hn⟩ := ih hr
      exact ⟨k, by omega, rfl, hn⟩
    | ok ws =>
      cases hw : readWord m (a + 8 * n) with
      | error g =>
        rw [hr, hw] at h
        simp only [Except.error.injEq] at h
        subst h
        obtain ⟨k, hk, rfl, hn⟩ := readWord_eq_error hw
        exact ⟨8 * n + k, by omega, by congr 1; omega, by rwa [show a + (8 * n + k) = a + 8 * n + k by omega]⟩
      | ok w => rw [hr, hw] at h; simp at h

/-- A read of words that are all held answers. -/
theorem readWords_of_held {m : Memory} {a n : Nat} (h : ∀ k, k < 8 * n → (memGet? m (a + k)).isSome) :
    ∃ v, readWords m a n = .ok v := by
  cases hr : readWords m a n with
  | ok v => exact ⟨v, rfl⟩
  | error f =>
    obtain ⟨k, hk, -, hn⟩ := readWords_eq_error hr
    have := h k hk
    simp [hn] at this

/-- A read of words depends on the bytes it covers only. -/
theorem readWords_congr {m m' : Memory} {a n : Nat}
    (h : ∀ k, k < 8 * n → memGet? m (a + k) = memGet? m' (a + k)) : readWords m a n = readWords m' a n := by
  induction n with
  | zero => rfl
  | succ n ih =>
    have h1 : readWords m a n = readWords m' a n := ih fun k hk => h k (by omega)
    have h2 : readBytes m (a + 8 * n) 8 = readBytes m' (a + 8 * n) 8 := readBytes_congr fun k hk => by
      have := h (8 * n + k) (by omega)
      rwa [show a + 8 * n + k = a + (8 * n + k) by omega]
    simp only [readWords, readWord, h1, h2]

/-! ### Blocks of the Memory Matrix -/

/-- The block just written reads back (R47). -/
theorem readBlock_writeBlock_same (m : Memory) (C row col : Nat) (blk : Vector Word 12) :
    readBlock (writeBlock m C row col blk) C row col = .ok blk := by
  refine readWords_eq_ok.2 fun k hk i hi => ?_
  have hl : (le64s blk.toList).length = 96 := by simp
  rw [Nat.add_assoc, writeBlock, writeWords, memGet?_memWrite, if_pos (by omega), Nat.add_sub_cancel_left,
    getElem?_le64s (by simpa using hk) hi]
  simp

/-- Where two blocks of one matrix can overlap: only when they are the same block (R47). -/
theorem blockAddr_eq_or_disjoint (C r c r' c' : Nat) (hc : c < C) (hc' : c' < C) :
    (r = r' ∧ c = c') ∨ blockAddr C r c + 96 ≤ blockAddr C r' c' ∨ blockAddr C r' c' + 96 ≤ blockAddr C r c := by
  rcases Nat.lt_trichotomy (r * C + c) (r' * C + c') with h | h | h
  · right; left; unfold blockAddr; omega
  · left
    have h1 : r = r' := by
      rcases Nat.lt_trichotomy r r' with hr | hr | hr
      · have := Nat.mul_le_mul_right C (show r + 1 ≤ r' by omega)
        rw [Nat.add_mul] at this
        omega
      · exact hr
      · have := Nat.mul_le_mul_right C (show r' + 1 ≤ r by omega)
        rw [Nat.add_mul] at this
        omega
    subst h1
    exact ⟨rfl, by omega⟩
  · right; right; unfold blockAddr; omega

/-- A block is not touched by a write of another block of the same matrix (R47). -/
theorem readBlock_writeBlock_other {C r c r' c' : Nat} (m : Memory) (blk : Vector Word 12) (hc : c < C) (hc' : c' < C)
    (h : r ≠ r' ∨ c ≠ c') : readBlock (writeBlock m C r' c' blk) C r c = readBlock m C r c := by
  refine readWords_congr fun k hk => memGet?_memWrite_outside ?_
  have hl : (le64s blk.toList).length = 96 := by simp
  rcases blockAddr_eq_or_disjoint C r c r' c' hc hc' with h1 | h1 | h1
  · rcases h with h | h
    · exact absurd h1.1 h
    · exact absurd h1.2 h
  · left; omega
  · right; omega

end Sys2Proof.Machine
end

