-- ==== Sys2Proof/Laws/Ops.lean ====
section
/-! SUPPORT. Acceptance, checks and completion, said once: what `issue` can answer, and that every command but `CLR`
and `SRST` is an `issue` of its plan. -/

namespace Sys2Proof.Machine

/-! ### Checks (R129) -/

@[simp] theorem firstFailing_nil : firstFailing [] = none := rfl

@[simp] theorem firstFailing_cons (ok : Bool) (e : ErrCode) (rest : List (Bool × ErrCode)) :
    firstFailing ((ok, e) :: rest) = if ok then firstFailing rest else some e := rfl

/-- No check fails exactly when all of them hold. -/
theorem firstFailing_eq_none {l : List (Bool × ErrCode)} : firstFailing l = none ↔ ∀ x ∈ l, x.1 = true := by
  induction l with
  | nil => simp
  | cons x l ih =>
    obtain ⟨ok, e⟩ := x
    cases ok <;> simp [ih]

/-- The checks of a list run before those appended to it. -/
theorem firstFailing_append (l l' : List (Bool × ErrCode)) :
    firstFailing (l ++ l') = (firstFailing l).or (firstFailing l') := by
  induction l with
  | nil => simp
  | cons x l ih =>
    obtain ⟨ok, e⟩ := x
    cases ok <;> simp [ih]

/-! ### Acceptance (R61) -/

/-- Everything a `CMD` write of a command other than `CLR` and `SRST` can answer with a next state. -/
theorem issue_eq_next {plan : State → Plan} {s t : State} (h : issue plan s = .next t) :
    ((busy s = true ∨ s.err.isSome = true) ∧ t = setHaz s) ∨
    (busy s = false ∧ s.err = none ∧ ∃ e, plan s = .error e ∧ t = raiseError e s) ∨
    (busy s = false ∧ s.err = none ∧ ∃ s', plan s = .ok (.ok s') ∧ t = complete s') := by
  rw [issue] at h
  by_cases hb : (busy s || s.err.isSome) = true
  · rw [if_pos hb] at h
    exact .inl ⟨by simpa using hb, by simpa using h.symm⟩
  · rw [if_neg hb] at h
    simp only [Bool.or_eq_true, not_or, Bool.not_eq_true, Option.isSome_eq_false_iff, Option.isNone_iff_eq_none] at hb
    right
    split at h
    next e he => exact .inl ⟨hb.1, hb.2, e, he, by simpa using h.symm⟩
    next s' hs => exact .inr ⟨hb.1, hb.2, s', hs, by simpa using h.symm⟩
    next => simp at h

/-- A `CMD` write of a command stops only where its effect reads a location that holds no value. -/
theorem issue_eq_fault {plan : State → Plan} {s : State} {f : Fault} (h : issue plan s = .fault f) :
    busy s = false ∧ s.err = none ∧ plan s = .ok (.error f) := by
  rw [issue] at h
  by_cases hb : (busy s || s.err.isSome) = true
  · rw [if_pos hb] at h; cases h
  · rw [if_neg hb] at h
    simp only [Bool.or_eq_true, not_or, Bool.not_eq_true, Option.isSome_eq_false_iff, Option.isNone_iff_eq_none] at hb
    split at h
    next => cases h
    next => cases h
    next g hg => cases h; exact ⟨hb.1, hb.2, hg⟩

theorem issue_ne_refused (plan : State → Plan) (s : State) (r : Refusal) : issue plan s ≠ .refused r := by
  rw [issue]
  split
  · simp
  · split <;> simp

/-- Acceptance when nothing runs and no error is pending. -/
theorem issue_ready {plan : State → Plan} {s : State} (hr : s.running = none) (he : s.err = none) :
    issue plan s =
      match plan s with
      | .error e => .next (raiseError e s)
      | .ok (.ok s') => .next (complete s')
      | .ok (.error f) => .fault f := by
  rcases hp : plan s with e | (f | t) <;> simp [issue, busy, hr, he, hp]

theorem issue_dropped {plan : State → Plan} {s : State} (h : busy s = true ∨ s.err.isSome = true) :
    issue plan s = .next (setHaz s) := by
  rw [issue, if_pos (by simpa using h)]

/-! ### Every command but `CLR` and `SRST` is an `issue` of its plan -/

/-- The one place that unfolds the dispatch. -/
theorem exec_eq_issue {i : Instr} (h : runsAtOnce i = false) (s : State) :
    exec i s = issue (planOf Config.params i) s := by
  cases i <;> first | rfl | simp [runsAtOnce] at h

theorem exec_clr (s : State) : exec .clr s = if busy s then .next (setHaz s) else .next (clearStatus s) := rfl

theorem exec_srst (s : State) : exec .srst s = if busy s then .next (setHaz s) else .next (resetState s) := rfl

/-- No command is without a meaning. -/
theorem exec_ne_refused (i : Instr) (s : State) (r : Refusal) : exec i s ≠ .refused r := by
  by_cases h : runsAtOnce i
  · cases i <;> simp [runsAtOnce] at h
    · rw [exec_clr]; split <;> simp
    · rw [exec_srst]; split <;> simp
  · rw [exec_eq_issue (by simpa using h)]
    exact issue_ne_refused _ _ _

/-! ### The checks and effects of commands leave the host's side alone -/

/-- What a command that starts does neither depends on the host's side of the state, on `DONE` and on `BUSY`, nor
changes them (R44, R63): they go through its plan untouched. -/
theorem planOf_withHostSide {p : Params} {i : Instr} (ha : runsAtOnce i = false) (h : HostSide) (d : Bool)
    (r : Option Instr) (s : State) :
    planOf p i (withHostSide h { s with done := d, running := r }) =
      match planOf p i s with
      | .ok (.ok t) => .ok (.ok (withHostSide h { t with done := d, running := r }))
      | .ok (.error f) => .ok (.error f)
      | .error e => .error e := by
  delta withHostSide
  cases i with
  | clr => simp [runsAtOnce] at ha
  | srst => simp [runsAtOnce] at ha
  | nop => rfl
  | qr q => rfl
  | permR => rfl
  | permF => rfl
  | sinit => rfl
  | absf row col =>
    simp +instances only [planOf, planAbsf]
    generalize firstFailing _ = x0
    cases x0 with
    | some e => rfl
    | none =>
    generalize readBlock _ _ _ _ = x1
    cases x1 with
    | error e => rfl
    | ok x1 =>
    rfl
  | abss n =>
    simp +instances only [planOf, planAbss]
    generalize firstFailing _ = x0
    cases x0 with
    | some e => rfl
    | none =>
    generalize readSafeBlock _ _ = x1
    cases x1 with
    | error e => rfl
    | ok x1 =>
    rfl
  | sqz =>
    simp +instances only [planOf, planSqz]
    generalize firstFailing _ = x0
    cases x0 with
    | some e => rfl
    | none =>
    rfl
  | pad =>
    simp +instances only [planOf, planPad, checkPad]
    generalize firstFailing _ = x0
    cases x0 with
    | some e => rfl
    | none =>
    generalize readBytes _ pwdBase _ = x1
    cases x1 with
    | error e => rfl
    | ok x1 =>
    generalize readBytes _ saltBase _ = x2
    cases x2 with
    | error e => rfl
    | ok x2 =>
    rfl
  | sqrow0 rout =>
    simp +instances only [planOf, planSqrow0, rowEffect, rowOk]
    generalize firstFailing _ = x0
    cases x0 with
    | some e => rfl
    | none =>
    generalize squeezeRow0 _ _ _ _ = x1
    cases x1 with
    | error e => rfl
    | ok x1 =>
    rfl
  | dpxrow1 rin rout =>
    simp +instances only [planOf, planDpxrow1, rowEffect, rowOk]
    generalize firstFailing _ = x0
    cases x0 with
    | some e => rfl
    | none =>
    generalize duplexRow1 _ _ _ _ = x1
    cases x1 with
    | error e => rfl
    | ok x1 =>
    rfl
  | dpxsetup prev rowa rnew =>
    simp +instances only [planOf, planDpxsetup, rowEffect, rowOk]
    generalize firstFailing _ = x0
    cases x0 with
    | some e => rfl
    | none =>
    generalize duplexRowSetup _ _ _ _ _ _ = x1
    cases x1 with
    | error e => rfl
    | ok x1 =>
    rfl
  | dpxwander prev rowa row =>
    simp +instances only [planOf, planDpxwander, rowEffect, rowOk]
    generalize firstFailing _ = x0
    cases x0 with
    | some e => rfl
    | none =>
    generalize duplexRow _ _ _ _ _ = x1
    cases x1 with
    | error e => rfl
    | ok x1 =>
    rfl
  | setup =>
    simp +instances only [planOf, planSetup]
    generalize firstFailing _ = x0
    cases x0 with
    | some e => rfl
    | none =>
    generalize setupProc _ _ _ _ = x1
    cases x1 with
    | error e => rfl
    | ok x1 =>
    rfl
  | wander =>
    simp +instances only [planOf, planWander]
    generalize firstFailing _ = x0
    cases x0 with
    | some e => rfl
    | none =>
    generalize wanderProc _ _ _ _ _ = x1
    cases x1 with
    | error e => rfl
    | ok x1 =>
    rfl
  | derive =>
    simp +instances only [planOf, planDerive, checkPad]
    generalize firstFailing _ = x0
    cases x0 with
    | some e => rfl
    | none =>
    generalize readBytes _ pwdBase _ = x1
    cases x1 with
    | error e => rfl
    | ok x1 =>
    generalize readBytes _ saltBase _ = x2
    cases x2 with
    | error e => rfl
    | ok x2 =>
    simp +instances only
    generalize deriveProc _ _ _ _ _ _ _ _ = x3
    cases x3 with
    | error e => rfl
    | ok x3 =>
    rfl
  | hpReset k =>
    simp only [planOf, planHpReset]
    cases unit? k <;> rfl
  | hpUpdate k src =>
    simp +instances only [planOf, planHpUpdate, hdrLenOk]
    cases unit? k <;> cases srcBuf? src <;> try rfl
    rename_i u b
    simp only
    generalize firstFailing _ = x
    cases x with
    | some e => rfl
    | none =>
    generalize s.acc[u] = y
    cases y with
    | none => rfl
    | some y =>
    generalize readBuf _ _ = z
    cases z <;> rfl
  | hpDigest k dst =>
    simp +instances only [planOf, planHpDigest]
    cases unit? k <;> cases dstBuf? dst <;> try rfl
    rename_i u b
    simp only
    generalize s.acc[u] = y
    cases y <;> rfl
  | hstage k src dst =>
    simp +instances only [planOf, planHstage, hdrLenOk]
    cases unit? k <;> cases srcBuf? src <;> cases dstBuf? dst <;> try rfl
    simp only
    generalize firstFailing _ = x
    cases x with
    | some e => rfl
    | none =>
    generalize hashStage _ _ _ _ _ = y
    cases y <;> rfl
  | powhash =>
    simp +instances only [planOf, planPowhash]
    generalize firstFailing _ = x
    cases x with
    | some e => rfl
    | none =>
    generalize hashStages _ stagesBefore _ = y
    cases y with
    | error e => rfl
    | ok m3 =>
    simp only
    generalize deriveStage _ _ = z
    cases z with
    | error e => rfl
    | ok d =>
    simp only
    generalize hashStages _ stagesAfter _ = w
    cases w <;> rfl

end Sys2Proof.Machine
end

