-- ==== Sys2Proof/Laws/Transforms.lean ====
section
/-! SUPPORT. What the quarter-round, the transforms and the sponge operations do to each word of `S`. -/

namespace Sys2Proof.Machine

/-! ### Rotation (R12) -/

/-- `rotr` is rotation to the right. -/
theorem rotr_eq_rotateRight (x : Word) {n : Nat} (h : n < 64) : rotr x n = x.rotateRight n := by
  rw [rotr, BitVec.rotateRight_def, Nat.mod_eq_of_lt h]

/-! ### One quarter-round -/

/-- The words of the tuple are the new ones, every other word is kept (R71). -/
theorem getElem_scatter (t : QuadIndex) (x : Quad) (S : Vector Word 16) (i : Nat) (h : i < 16) :
    (scatter t x S)[i] =
      if t.d.val = i then x.d else if t.c.val = i then x.c else if t.b.val = i then x.b
      else if t.a.val = i then x.a else S[i] := by
  simp only [scatter, Vector.getElem_set]

@[simp] theorem gather_a (t : QuadIndex) (S : Vector Word 16) : (gather t S).a = S[t.a] := rfl
@[simp] theorem gather_b (t : QuadIndex) (S : Vector Word 16) : (gather t S).b = S[t.b] := rfl
@[simp] theorem gather_c (t : QuadIndex) (S : Vector Word 16) : (gather t S).c = S[t.c] := rfl
@[simp] theorem gather_d (t : QuadIndex) (S : Vector Word 16) : (gather t S).d = S[t.d] := rfl

/-! ### Rounds -/

@[simp] theorem rounds_zero (S : Vector Word 16) : rounds 0 S = S := rfl

theorem rounds_succ (n : Nat) (S : Vector Word 16) : rounds (n + 1) S = rounds n (roundS S) := rfl

theorem rounds_add (m n : Nat) (S : Vector Word 16) : rounds (m + n) S = rounds n (rounds m S) := by
  induction m generalizing S with
  | zero => rw [Nat.zero_add, rounds_zero]
  | succ m ih => rw [Nat.add_right_comm, rounds_succ, ih, rounds_succ]

theorem rounds_succ' (n : Nat) (S : Vector Word 16) : rounds (n + 1) S = roundS (rounds n S) := rounds_add n 1 S

theorem reducedTransform_eq (S : Vector Word 16) : reducedTransform S = roundS S := rfl

/-! ### The sponge -/

@[simp] theorem getElem_xorInto {n : Nat} (ws : Vector Word n) (S : Vector Word 16) (i : Nat) (h : i < 16) :
    (xorInto ws S)[i] = if h' : i < n then S[i] ^^^ ws[i] else S[i] := by
  simp [xorInto]

@[simp] theorem getElem_rate (S : Vector Word 16) (i : Nat) (h : i < 12) : (rate S)[i] = S[i] := by
  simp [rate]

@[simp] theorem getElem_xorBlock (x y : Vector Word 12) (i : Nat) (h : i < 12) :
    (xorBlock x y)[i] = x[i] ^^^ y[i] := by
  simp [xorBlock]

@[simp] theorem getElem_addBlock (x y : Vector Word 12) (i : Nat) (h : i < 12) :
    (addBlock x y)[i] = x[i] + y[i] := by
  simp [addBlock]

@[simp] theorem getElem_rotatedRate (S : Vector Word 16) (i : Nat) (h : i < 12) :
    (rotatedRate S)[i] = S[(i + 11) % 12]'(Nat.lt_trans (Nat.mod_lt _ (by decide)) (by decide)) := by
  simp [rotatedRate]

@[simp] theorem getElem_initWords (iv : Vector Word 8) (i : Nat) (h : i < 16) :
    (initWords iv)[i] = if h' : i < 8 then 0 else iv[i - 8] := by
  simp [initWords]

/-- The squeeze's full blocks have 96 bytes each (R85). -/
theorem length_squeezeBlocks (n : Nat) (S : Vector Word 16) : (squeezeBlocks n S).1.length = 96 * n := by
  induction n generalizing S with
  | zero => rfl
  | succ n ih =>
    rw [squeezeBlocks, List.length_append, ih, length_le64s]
    simp
    omega

/-- A squeeze returns as many bytes as it is asked for (R85). -/
@[simp] theorem length_squeeze (n : Nat) (S : Vector Word 16) : (squeeze n S).1.length = n := by
  rw [squeeze, List.length_append, length_squeezeBlocks, List.length_take, length_le64s]
  simp
  omega

/-- The state a squeeze leaves: one full transform for every full block (R85). -/
theorem squeezeBlocks_snd (n : Nat) (S : Vector Word 16) : (squeezeBlocks n S).2 = rounds (12 * n) S := by
  induction n generalizing S with
  | zero => rfl
  | succ n ih => rw [squeezeBlocks, ih, Nat.mul_succ, Nat.add_comm, rounds_add]; rfl

end Sys2Proof.Machine
end

