-- ==== Sys2Proof/Laws/MemoryHard.lean ====
section
/-! SUPPORT. Induction principles for the loops of the Memory-Hard Core, each packaged once: an invariant that every
column, row or visit keeps holds at the end, and a loop whose every body answers, answers. -/

namespace Sys2Proof.Machine

/-- A loop over columns: if every column answers and keeps an invariant, the loop answers and ends in it. -/
theorem forCols_induct {f : Nat → Work → Except Fault Work} (I : Nat → Work → Prop) {n col : Nat} {w : Work}
    (h0 : I col w)
    (hs : ∀ c v, col ≤ c → c < col + n → I c v → ∃ v', f c v = .ok v' ∧ I (c + 1) v') :
    ∃ w', forCols f n col w = .ok w' ∧ I (col + n) w' := by
  induction n generalizing col w with
  | zero => exact ⟨w, rfl, h0⟩
  | succ n ih =>
    obtain ⟨v, hv, hI⟩ := hs col w (Nat.le_refl _) (by omega) h0
    obtain ⟨w', hw, hI'⟩ := ih hI fun c u h1 h2 => hs c u (by omega) (by omega)
    refine ⟨w', ?_, by rwa [show col + (n + 1) = col + 1 + n by omega]⟩
    rw [forCols, hv]
    exact hw

/-- A loop over columns that answered: an invariant every answering column keeps holds at the end. -/
theorem forCols_inv {f : Nat → Work → Except Fault Work} (I : Nat → Work → Prop) {n col : Nat} {w w' : Work}
    (h : forCols f n col w = .ok w') (h0 : I col w)
    (hs : ∀ c v v', col ≤ c → c < col + n → f c v = .ok v' → I c v → I (c + 1) v') : I (col + n) w' := by
  induction n generalizing col w with
  | zero => simp only [forCols, Except.ok.injEq] at h; subst h; exact h0
  | succ n ih =>
    rw [forCols] at h
    cases hv : f col w with
    | error e => rw [hv] at h; simp at h
    | ok v =>
      rw [hv] at h
      have := ih h (hs col w v (Nat.le_refl _) (by omega) hv h0) fun c u u' h1 h2 => hs c u u' (by omega) (by omega)
      rwa [show col + (n + 1) = col + 1 + n by omega]

/-- A loop over columns that stopped: some column stopped, on what the columns before it left. -/
theorem forCols_error {f : Nat → Work → Except Fault Work} (I : Nat → Work → Prop) {n col : Nat} {w : Work} {e : Fault}
    (h : forCols f n col w = .error e) (h0 : I col w)
    (hs : ∀ c v v', col ≤ c → c < col + n → f c v = .ok v' → I c v → I (c + 1) v') :
    ∃ c v, col ≤ c ∧ c < col + n ∧ I c v ∧ f c v = .error e := by
  induction n generalizing col w with
  | zero => simp [forCols] at h
  | succ n ih =>
    rw [forCols] at h
    cases hv : f col w with
    | error g =>
      rw [hv] at h
      simp only [Except.error.injEq] at h
      subst h
      exact ⟨col, w, Nat.le_refl _, by omega, h0, hv⟩
    | ok v =>
      rw [hv] at h
      obtain ⟨c, u, h1, h2, h3, h4⟩ := ih h (hs col w v (Nat.le_refl _) (by omega) hv h0)
        fun c u u' h1 h2 => hs c u u' (by omega) (by omega)
      exact ⟨c, u, by omega, by omega, h3, h4⟩

/-- The loop of Setup that answered: an invariant every row keeps holds at the end. -/
theorem setupLoop_inv {p : Params} {C : Nat} (I : Sched → Work → Prop) {n : Nat} {c c' : Sched} {w w' : Work}
    (h : setupLoop p C n c w = .ok (w', c')) (h0 : I c w)
    (hs : ∀ c v v', duplexRowSetup p c.prev c.rowa c.row C v = .ok v' → I c v → I (schedNext c) v') : I c' w' := by
  induction n generalizing c w with
  | zero => simp only [setupLoop, Except.ok.injEq, Prod.mk.injEq] at h; obtain ⟨rfl, rfl⟩ := h; exact h0
  | succ n ih =>
    rw [setupLoop] at h
    cases hv : duplexRowSetup p c.prev c.rowa c.row C w with
    | error e => rw [hv] at h; simp at h
    | ok v => rw [hv] at h; exact ih h (hs c w v hv h0)

/-- A pass of Wandering that answered: an invariant every visit keeps holds at the end. -/
theorem wanderPass_inv {R C : Nat} (I : Work × Tour → Prop) {n : Nat} {x y : Work × Tour}
    (h : wanderPass R C n x = .ok y) (h0 : I x)
    (hs : ∀ x y, wanderVisit R C x = .ok y → I x → I y) : I y := by
  induction n generalizing x with
  | zero => simp only [wanderPass, Except.ok.injEq] at h; subst h; exact h0
  | succ n ih =>
    rw [wanderPass] at h
    cases hv : wanderVisit R C x with
    | error e => rw [hv] at h; simp at h
    | ok z =>
      rw [hv] at h
      by_cases hz : z.2.row = 0
      · simp only [hz, if_true, Except.ok.injEq] at h
        subst h
        exact hs x z hv h0
      · simp only [hz, if_false] at h
        exact ih h (hs x z hv h0)

/-- The passes of Wandering that answered: an invariant every pass keeps holds at the end. -/
theorem wanderPasses_inv {R C : Nat} (I : Nat → Work × Tour → Prop) {n tau : Nat} {x y : Work × Tour}
    (h : wanderPasses R C n tau x = .ok y) (h0 : I tau x)
    (hs : ∀ tau x y, wanderPass R C R (x.1, { x.2 with tau := tau, stride := wanderStride R tau }) = .ok y →
      I tau x → I (tau + 1) y) : I (tau + n) y := by
  induction n generalizing tau x with
  | zero => simp only [wanderPasses, Except.ok.injEq] at h; subst h; exact h0
  | succ n ih =>
    rw [wanderPasses] at h
    cases hv : wanderPass R C R (x.1, { x.2 with tau := tau, stride := wanderStride R tau }) with
    | error e => rw [hv] at h; simp at h
    | ok z =>
      rw [hv] at h
      have := ih h (hs tau x z hv h0)
      rwa [show tau + (n + 1) = tau + 1 + n by omega]

/-- The initial absorption leaves the storage alone. -/
theorem absorbBlocks_mem {n blk : Nat} {w w' : Work} (h : absorbBlocks n blk w = .ok w') : w'.mem = w.mem := by
  induction n generalizing blk w with
  | zero => simp only [absorbBlocks, Except.ok.injEq] at h; rw [h]
  | succ n ih =>
    rw [absorbBlocks] at h
    split at h
    next => simp at h
    next b hb =>
      have := ih h
      exact this

/-! ### Padding (R90) -/

theorem length_padFill (m : List Byte) : (padFill m).length = 64 * ((m.length + 63) / 64) := by
  simp only [padFill, List.length_modify, List.length_append, List.length_replicate]
  omega

@[simp] theorem length_padMessage (outLen : Word) (pwd salt : List Byte) (t R C : Word) :
    (padMessage outLen pwd salt t R C).length = pwd.length + salt.length + 49 := by
  simp [padMessage]
  omega

/-- The padded input has `padBlocks` safe blocks (R90). -/
@[simp] theorem length_padInput (outLen : Word) (pwd salt : List Byte) (t R C : Word) :
    (padInput outLen pwd salt t R C).length = 64 * padBlocks pwd.length salt.length := by
  rw [padInput, length_padFill, length_padMessage, padBlocks]
  omega

end Sys2Proof.Machine
end

