-- ==== Sys2Proof/Laws/PerInstr.lean ====
section
/-! SUPPORT. Facts about every command, one lemma per constructor. The family `OpcodeField`: bits 31:24 of a command's
word are its opcode (R56, R58). -/

namespace Sys2Proof.Laws

open Sys2Proof

/-- The opcode column of R58. -/
def opcode : Instr → Nat
  | .nop => 0x00
  | .clr => 0x01
  | .srst => 0x02
  | .qr _ => 0x10
  | .permR => 0x11
  | .permF => 0x12
  | .sinit => 0x20
  | .absf _ _ => 0x21
  | .abss _ => 0x22
  | .sqz => 0x23
  | .pad => 0x30
  | .sqrow0 _ => 0x31
  | .dpxrow1 _ _ => 0x32
  | .dpxsetup _ _ _ => 0x33
  | .dpxwander _ _ _ => 0x34
  | .setup => 0x35
  | .wander => 0x36
  | .derive => 0x37
  | .hpReset _ => 0x40
  | .hpUpdate _ _ => 0x41
  | .hpDigest _ _ => 0x42
  | .hstage _ _ _ => 0x43
  | .powhash => 0x4F

/-- The opcode field of a packed word whose operand bytes fit. -/
theorem slice_packWord {op a b c : Nat} (ho : op < 256) (ha : a < 256) (hb : b < 256) (hc : c < 256) :
    slice (packWord op a b c) 31 24 = op := by
  simp only [slice, packWord, BitVec.toNat_ofNat, Nat.reducePow, Nat.reduceAdd, Nat.reduceSub]
  omega

namespace OpcodeField

/-- Bits 31:24 of the command's word are its opcode. -/
def Statement (i : Instr) : Prop := i.wf = true → slice (encode i) 31 24 = opcode i

theorem nop : Statement .nop := fun _ => slice_packWord (by decide) (by decide) (by decide) (by decide)

theorem clr : Statement .clr := fun _ => slice_packWord (by decide) (by decide) (by decide) (by decide)

theorem srst : Statement .srst := fun _ => slice_packWord (by decide) (by decide) (by decide) (by decide)

theorem qr (q : Fin 8) : Statement (.qr q) := fun _ =>
  slice_packWord (by decide) (by decide) (by decide) (Nat.lt_trans q.isLt (by decide))

theorem permR : Statement .permR := fun _ => slice_packWord (by decide) (by decide) (by decide) (by decide)

theorem permF : Statement .permF := fun _ => slice_packWord (by decide) (by decide) (by decide) (by decide)

theorem sinit : Statement .sinit := fun _ => slice_packWord (by decide) (by decide) (by decide) (by decide)

theorem absf (a b : Nat) : Statement (.absf a b) := fun h =>
  have h : a < 256 ∧ b < 256 := by simpa [Instr.wf, fits8, and_assoc] using h
  slice_packWord (by decide) (by decide) h.1 h.2

theorem abss (n : Nat) : Statement (.abss n) := fun h =>
  have h : n < 65536 := by simpa [Instr.wf, fits16] using h
  slice_packWord (by decide) (by decide) (by omega) (by omega)

theorem sqz : Statement .sqz := fun _ => slice_packWord (by decide) (by decide) (by decide) (by decide)

theorem pad : Statement .pad := fun _ => slice_packWord (by decide) (by decide) (by decide) (by decide)

theorem sqrow0 (a : Nat) : Statement (.sqrow0 a) := fun h =>
  have h : a < 256 := by simpa [Instr.wf, fits8, and_assoc] using h
  slice_packWord (by decide) (by decide) (by decide) h

theorem dpxrow1 (a b : Nat) : Statement (.dpxrow1 a b) := fun h =>
  have h : a < 256 ∧ b < 256 := by simpa [Instr.wf, fits8, and_assoc] using h
  slice_packWord (by decide) (by decide) h.1 h.2

theorem dpxsetup (a b c : Nat) : Statement (.dpxsetup a b c) := fun h =>
  have h : a < 256 ∧ b < 256 ∧ c < 256 := by simpa [Instr.wf, fits8, and_assoc] using h
  slice_packWord (by decide) h.1 h.2.1 h.2.2

theorem dpxwander (a b c : Nat) : Statement (.dpxwander a b c) := fun h =>
  have h : a < 256 ∧ b < 256 ∧ c < 256 := by simpa [Instr.wf, fits8, and_assoc] using h
  slice_packWord (by decide) h.1 h.2.1 h.2.2

theorem setup : Statement .setup := fun _ => slice_packWord (by decide) (by decide) (by decide) (by decide)

theorem wander : Statement .wander := fun _ => slice_packWord (by decide) (by decide) (by decide) (by decide)

theorem derive : Statement .derive := fun _ => slice_packWord (by decide) (by decide) (by decide) (by decide)

theorem hpReset (a : Nat) : Statement (.hpReset a) := fun h =>
  have h : a < 256 := by simpa [Instr.wf, fits8, and_assoc] using h
  slice_packWord (by decide) (by decide) (by decide) h

theorem hpUpdate (a b : Nat) : Statement (.hpUpdate a b) := fun h =>
  have h : a < 256 ∧ b < 256 := by simpa [Instr.wf, fits8, and_assoc] using h
  slice_packWord (by decide) (by decide) h.1 h.2

theorem hpDigest (a b : Nat) : Statement (.hpDigest a b) := fun h =>
  have h : a < 256 ∧ b < 256 := by simpa [Instr.wf, fits8, and_assoc] using h
  slice_packWord (by decide) (by decide) h.1 h.2

theorem hstage (a b c : Nat) : Statement (.hstage a b c) := fun h =>
  have h : a < 256 ∧ b < 256 ∧ c < 256 := by simpa [Instr.wf, fits8, and_assoc] using h
  slice_packWord (by decide) h.1 h.2.1 h.2.2

theorem powhash : Statement .powhash := fun _ => slice_packWord (by decide) (by decide) (by decide) (by decide)

end OpcodeField

end Sys2Proof.Laws
end

