-- ==== Sys2Proof/Tests/Slice0.lean ====
section
/-! SUPPORT. The model's own tests: the well-formedness smoke, the decoding of words written out from the spec, small
checks of one command each against the vectors of 95_test_vectors.md, and for every statement with hypotheses a witness
that meets them. Every expected value is the spec's. -/

namespace Sys2Proof.Tests

set_option Elab.async false

open Sys2Proof.Machine Sys2Proof.Claims

/-! ### Well-formedness: an ill-formed term for each check -/

theorem test_wf_absf_row : (Instr.absf 256 0).wf = false := by decide
theorem test_wf_absf_col : (Instr.absf 0 256).wf = false := by decide
theorem test_wf_abss : (Instr.abss 65536).wf = false ∧ (Instr.abss 65535).wf = true := by decide
theorem test_wf_sqrow0 : (Instr.sqrow0 256).wf = false := by decide
theorem test_wf_dpxrow1 : (Instr.dpxrow1 256 0).wf = false ∧ (Instr.dpxrow1 0 256).wf = false := by decide
theorem test_wf_dpxsetup : (Instr.dpxsetup 256 0 0).wf = false ∧ (Instr.dpxsetup 0 256 0).wf = false ∧
    (Instr.dpxsetup 0 0 256).wf = false := by decide
theorem test_wf_dpxwander : (Instr.dpxwander 256 0 0).wf = false ∧ (Instr.dpxwander 0 256 0).wf = false ∧
    (Instr.dpxwander 0 0 256).wf = false := by decide
theorem test_wf_hpReset : (Instr.hpReset 256).wf = false ∧ (Instr.hpReset 255).wf = true := by decide
theorem test_wf_hpUpdate : (Instr.hpUpdate 256 0).wf = false ∧ (Instr.hpUpdate 0 256).wf = false := by decide
theorem test_wf_hpDigest : (Instr.hpDigest 256 0).wf = false ∧ (Instr.hpDigest 0 256).wf = false := by decide
theorem test_wf_hstage : (Instr.hstage 256 0 0).wf = false ∧ (Instr.hstage 0 256 0).wf = false ∧
    (Instr.hstage 0 0 256).wf = false := by decide

/-! ### Decoding: each command's word, written out from R57 and R58 (and R67, V33) -/

theorem test_decode_nop : decodeWord 0x00000000#32 = .ok .nop := by decide
theorem test_decode_clr : decodeWord 0x01000000#32 = .ok .clr := by decide
theorem test_decode_srst : decodeWord 0x02000000#32 = .ok .srst := by decide
theorem test_decode_qr : decodeWord 0b00010000000000000000000000000101#32 = .ok (.qr 5) := by decide
theorem test_decode_permR : decodeWord 0x11000000#32 = .ok .permR := by decide
theorem test_decode_permF : decodeWord 0b00010010000000000000000000000000#32 = .ok .permF := by decide
theorem test_decode_sinit : decodeWord 0x20000000#32 = .ok .sinit := by decide
theorem test_decode_absf : decodeWord 0b00100001000000000000001100000000#32 = .ok (.absf 3 0) := by decide
theorem test_decode_abss : decodeWord 0b00100010000000001111111111111110#32 = .ok (.abss 65534) := by decide
theorem test_decode_sqz : decodeWord 0x23000000#32 = .ok .sqz := by decide
theorem test_decode_pad : decodeWord 0x30000000#32 = .ok .pad := by decide
theorem test_decode_sqrow0 : decodeWord 0x310000A5#32 = .ok (.sqrow0 165) := by decide
theorem test_decode_dpxrow1 : decodeWord 0x32000001#32 = .ok (.dpxrow1 0 1) := by decide
theorem test_decode_dpxsetup : decodeWord 0b00110011000000010000000000000010#32 = .ok (.dpxsetup 1 0 2) := by decide
theorem test_decode_dpxwander : decodeWord 0x340302FF#32 = .ok (.dpxwander 3 2 255) := by decide
theorem test_decode_setup : decodeWord 0x35000000#32 = .ok .setup := by decide
theorem test_decode_wander : decodeWord 0x36000000#32 = .ok .wander := by decide
theorem test_decode_derive : decodeWord 0x37000000#32 = .ok .derive := by decide
theorem test_decode_hpReset : decodeWord 0x40000003#32 = .ok (.hpReset 3) := by decide
theorem test_decode_hpUpdate : decodeWord 0x41000100#32 = .ok (.hpUpdate 1 0) := by decide
theorem test_decode_hpDigest : decodeWord 0x42000101#32 = .ok (.hpDigest 1 1) := by decide
theorem test_decode_hstage : decodeWord 0b01000011000000110000001000000001#32 = .ok (.hstage 3 2 1) := by decide
theorem test_decode_powhash : decodeWord 0x4F000000#32 = .ok .powhash := by decide

/-- V33, R59 (b): unassigned opcodes. -/
theorem test_decode_unassigned : decodeWord 0x38000000#32 = .error .unassignedOpcode ∧
    decodeWord 0x03000000#32 = .error .unassignedOpcode ∧ decodeWord 0xFF000000#32 = .error .unassignedOpcode := by
  decide

/-- V33, R59 (c): a reserved field that is not zero, in each format that has one. -/
theorem test_decode_reserved : decodeWord 0x12000001#32 = .error .reservedField ∧
    decodeWord 0x10000008#32 = .error .reservedField ∧ decodeWord 0x22010000#32 = .error .reservedField ∧
    decodeWord 0x31000100#32 = .error .reservedField ∧ decodeWord 0x21010300#32 = .error .reservedField ∧
    decodeWord 0x01000001#32 = .error .reservedField := by decide

/-- V33, R59 (a): bits 63:32 that are not zero. -/
theorem test_decode_high : decode 0x0000000112000000#64 = .error .highBitsSet ∧
    decode 0x0000000012000000#64 = .ok .permF := by decide

/-- The decoder's table is that of R58, as the claims write it out. -/
theorem test_opcodeMap : opcodeMap.map (fun r => (r.pattern, r.mask)) = specRows := by decide

/-! ### One command each, on the reference configuration and the toy hashes of 95_test_vectors.md -/

/-- The message's bytes at positions `j`, `j + 32`, `j + 64`, … XORed together. -/
def folded (m : List Byte) (j : Nat) : Byte :=
  (List.range ((m.length + 31) / 32)).foldl (fun x i => x ^^^ m.getD (32 * i + j) 0) 0

/-- `Tk` (95_test_vectors.md). -/
def toy (k : Fin 5) (m : List Byte) : Vector Byte 32 :=
  Vector.ofFn fun j => folded m j.val ^^^ (if j.val = 0 then BitVec.ofNat 8 (k.val + 1) else 0)

/-- The reference configuration. -/
def P : Params := Config.reference toy

/-- The state after reset with the default `IV`. -/
def fresh : State := { State.reset with S := initWords Config.defaultIV }

/-- `S[i] = i`. -/
def counting : State := { State.reset with S := Vector.ofFn fun i => BitVec.ofNat 64 i.val }

/-- The matrix dimensions, and words `1, 2, …` of each block listed, from the value given. -/
def matrix (R C : Nat) (blocks : List (Nat × Nat)) : State :=
  { fresh with
    nRows := BitVec.ofNat 64 R
    nCols := BitVec.ofNat 64 C
    mem := blocks.flatMap fun b =>
      cellsFrom (0x10000 + 96 * b.1) (le64s ((List.range 12).map fun k => BitVec.ofNat 64 (b.2 + k))) }

/-- What a fact says of the state a command that starts ends in. -/
def ends (i : Instr) (s : State) (f : State → Bool) : Bool :=
  match planOf P i s with
  | .ok (.ok t) => f t
  | _ => false

/-- The error a command's checks raise. -/
def refuses (i : Instr) (s : State) (e : ErrCode) : Bool :=
  match planOf P i s with
  | .error e' => decide (e' = e)
  | .ok _ => false

/-- The bytes at an address, as one little-endian number. -/
def number (s : State) (a n : Nat) : Option Nat :=
  match readBytes s.mem a n with
  | .ok bs => some (leNat bs)
  | .error _ => none

/-- Word `k` of a block. -/
def cell (s : State) (C r c k : Nat) : Option Nat := number s (0x10000 + 96 * (r * C + c) + 8 * k) 8

/-- V6, `q = 0`. -/
theorem test_qr_column : ends (.qr 0) counting (fun t =>
    t.S[0] == 0x00000C0000000804 && t.S[4] == 0x1008181018101010 && t.S[8] == 0x080400080C080008 &&
    t.S[12] == 0x080400000C080000 && t.S[1] == 1) = true := by decide +kernel

/-- V6, `q = 7`. -/
theorem test_qr_diagonal : ends (.qr 7) counting (fun t =>
    t.S[3] == 0x00000D0000000907 && t.S[4] == 0x120E1A121A121212 && t.S[9] == 0x090700090D090009 &&
    t.S[14] == 0x090700000D090000 && t.S[0] == 0) = true := by decide +kernel

/-- V9. -/
theorem test_permR : ends .permR fresh (fun t =>
    t.S[0] == 0xD11C2568289A5CE3 && t.S[7] == 0xA5B6739E3959379B && t.S[15] == 0x9AE136CCBDA8C5BE) = true := by
  decide +kernel

/-- V10. -/
theorem test_permF : ends .permF fresh (fun t =>
    t.S[0] == 0xE69F10665547562D && t.S[15] == 0xE71689C7EBA1C037) = true := by decide +kernel

/-- V13. -/
theorem test_sinit : ends .sinit counting (fun t =>
    t.S[7] == 0 && t.S[8] == 0x6A09E667F3BCC908 && t.S[15] == 0x5BE0CD19137E2179) = true := by decide +kernel

/-- V15. -/
theorem test_absf : ends (.absf 0 0) (matrix 1 1 [(0, 1)]) (fun t =>
    t.S[0] == 0xB7CA30B4235E1C91 && t.S[15] == 0xF645EBCBC5FD4314) = true := by decide +kernel

/-- V14. -/
theorem test_abss : ends (.abss 0)
    { fresh with nBlk := 1, mem := cellsFrom 0x4000 (le64s [1, 2, 3, 4, 5, 6, 7, 8]) } (fun t =>
    t.S[0] == 0x32F50C0C643741C0 && t.S[15] == 0x66BAA3DE13AEC7CC) = true := by decide +kernel

/-- V16, `OUTLEN = 97`. -/
theorem test_sqz : ends .sqz { fresh with outLen := 97 } (fun t =>
    number t 0x3058 9 == some 0x2DA54FF53A5F1D36F1) = true := by decide +kernel

/-- V16, `OUTLEN = 192`. -/
theorem test_sqz_capacity : refuses .sqz { fresh with outLen := 192 } .capacity = true := by decide

/-- V18. -/
theorem test_pad : ends .pad
    { fresh with outLen := 32, pwdLen := 3, saltLen := 2, timeCost := 2, nRows := 2, nCols := 1,
                 mem := [(0x1000, 0x61), (0x1001, 0x62), (0x1002, 0x63), (0x2000, 0x64), (0x2001, 0x65)] } (fun t =>
    t.nBlk == 1 && number t 0x4000 32 == some 0x020000000000000002000000000000000300000000000000206564636261 &&
    number t 0x4020 32 == some 0x0100000000000000000080000000000000000100000000000000020000000000) = true := by decide +kernel

/-- V17 (c): the `0x80` byte is the last byte. -/
theorem test_pad_last : ends .pad
    { fresh with outLen := 32, pwdLen := 15, timeCost := 1, nRows := 4, nCols := 4,
                 mem := cellsFrom 0x1000 ((List.range 15).map (BitVec.ofNat 8)) } (fun t =>
    t.nBlk == 1 && number t 0x400E 2 == some 0x200E && number t 0x403E 2 == some 0x8100) = true := by decide +kernel

/-- V20. -/
theorem test_sqrow0 : ends (.sqrow0 0) (matrix 4 4 []) (fun t =>
    cell t 4 0 3 0 == some 0 && cell t 4 0 2 0 == some 0xD11C2568289A5CE3 && cell t 4 0 1 0 == some 0x2411EEC9B5FEDD11 &&
    cell t 4 0 0 8 == some 0xB34D9C792E0BCC2F && t.S[0] == 0x651076F66F0622DC) = true := by decide +kernel

/-- V21. -/
theorem test_dpxrow1 : ends (.dpxrow1 0 1) (matrix 2 2 [(0, 1), (1, 13)]) (fun t =>
    cell t 2 1 1 0 == some 0xB30578522D78BE82 && cell t 2 1 0 11 == some 0xEFBD1A3E5E307C46 &&
    cell t 2 0 1 0 == some 13 && t.S[15] == 0x776CB0F5B883A619) = true := by decide +kernel

/-- V22. -/
theorem test_dpxsetup : ends (.dpxsetup 1 0 2) (matrix 3 2 [(0, 1), (1, 13), (2, 101), (3, 113)]) (fun t =>
    cell t 2 2 0 0 == some 0xDE066C7515686727 && cell t 2 2 1 11 == some 0x3352F59D7E5C7A8F &&
    cell t 2 0 0 0 == some 0xF9FDABD2AF120317 && cell t 2 0 1 1 == some 0x2A9CD5ABD80CD4A3 &&
    cell t 2 1 1 0 == some 113) = true := by decide +kernel

/-- V23, `DPXWANDER 0, 1, 1`. -/
theorem test_dpxwander_alias : ends (.dpxwander 0 1 1) (matrix 3 1 [(0, 1), (1, 101), (2, 201)]) (fun t =>
    cell t 1 1 0 0 == some 0x27FBC7A7BA7A6431 && cell t 1 1 0 11 == some 0xF9658433DA1F1F66 &&
    cell t 1 2 0 0 == some 201 && t.S[0] == 0xDE066C7515686742) = true := by decide +kernel

/-- V23, `DPXWANDER 1, 1, 0`. -/
theorem test_dpxwander_double : ends (.dpxwander 1 1 0) (matrix 3 1 [(0, 1), (1, 101), (2, 201)]) (fun t =>
    cell t 1 0 0 1 == some 0x4CCC5DF33818D215 && cell t 1 1 0 0 == some 0x99958890417367F3) = true := by decide +kernel

/-- V19, `NROWS = 4`. -/
theorem test_setup : ends .setup (matrix 4 1 []) (fun t =>
    t.row == 4 && t.prev == 3 && t.rowa == 0 && t.stride == 3 && t.window == 4 && t.gap == 0xFFFFFFFFFFFFFFFF &&
    t.tau == 0) = true := by decide +kernel

/-- V34: `NROWS = 1` is refused, and the product of the dimensions does not wrap. -/
theorem test_setup_refused : refuses .setup { fresh with nRows := 1, nCols := 4 } .nRows = true ∧
    refuses .setup { fresh with nRows := 0x4000000000000000, nCols := 4 } .capacity = true := by decide

/-- R98, R147: with `NROWS = 2` an odd pass stands still: one visit of row 0, `STEP` 0. -/
theorem test_wander : ends .wander { matrix 2 1 [(0, 1), (1, 13)] with timeCost := 1, prev := 1, row := 9 } (fun t =>
    t.row == 0 && t.prev == 0 && t.rowa == 0 && t.stride == 0 && t.tau == 1 && t.window == 0 &&
    cell t 1 1 0 0 == some 13) = true := by decide +kernel

/-- V34: `PREV` not below `NROWS`. -/
theorem test_wander_refused : refuses .wander { fresh with nRows := 4, nCols := 1, timeCost := 1, prev := 7 } .operand =
    true := by decide

/-- V34: the first check that fails is the one reported. -/
theorem test_derive_refused : refuses .derive { fresh with nRows := 0, nCols := 4, timeCost := 1, pwdLen := 65 } .param =
    true ∧ refuses .derive { fresh with nRows := 6, nCols := 100, timeCost := 1 } .nRows = true := by decide

/-- BUFA holds 32 bytes `AA` (V32). -/
def buffered : State := { fresh with mem := cellsFrom 0x200 (List.replicate 32 0xAA) }

/-- V34: `k` is 1 to 5. -/
theorem test_hpReset : ends (.hpReset 5) buffered (fun t => t.acc[4] == some []) = true ∧
    refuses (.hpReset 6) buffered .operand = true := by decide

/-- V32: two updates are concatenated; V34: `ERR_HDRLEN` is checked before `ERR_HPSEQ`. -/
theorem test_hpUpdate : ends (.hpUpdate 3 1) { buffered with acc := buffered.acc.set 2 (some [1]) } (fun t =>
    t.acc[2] == some (1 :: List.replicate 32 0xAA)) = true ∧
    refuses (.hpUpdate 1 0) { fresh with hdrLen := 79 } .hdrLen = true := by decide +kernel

/-- V32: `T3` of the empty string. -/
theorem test_hpDigest : ends (.hpDigest 3 2) { buffered with acc := buffered.acc.set 2 (some []) } (fun t =>
    number t 0x220 32 == some 3 && t.acc[2] == none) = true := by decide +kernel

/-- V32: `HSTAGE 3, A, B`. -/
theorem test_hstage : ends (.hstage 3 1 2) buffered (fun t =>
    number t 0x220 8 == some 0xAAAAAAAAAAAAAAA9 && number t 0x200 8 == some 0xAAAAAAAAAAAAAAAA && t.acc[2] == none) =
    true := by decide +kernel

/-- V34: `src = dst`. -/
theorem test_hstage_refused : refuses (.hstage 1 1 1) fresh .operand = true := by decide

/-- V28: the first three stages of the chain on `HDR[i] = i`. -/
theorem test_powhash_stages : (match hashStages P stagesBefore (cellsFrom 0x180 ((List.range 80).map (BitVec.ofNat 8))) with
    | .ok m => readBytes m 0x200 4 == .ok [0x60, 0x61, 0x62, 0x63] && readBytes m 0x220 2 == .ok [0x63, 0x61]
    | .error _ => false) = true := by decide +kernel

/-- V34: `HDRLEN = 81`. -/
theorem test_powhash_refused : refuses .powhash { fresh with hdrLen := 81 } .hdrLen = true := by decide

/-- A fact about the state a step ends in. -/
def steps (s : State) (f : State → Bool) : Bool :=
  match step s with
  | .next t => f t
  | _ => false

/-- R122: `NOP` after reset leaves `STATUS = 0x2`. -/
theorem test_nop : steps (State.reset.withFetchWord 32 0x00000000) (fun t => statusWord t == 2 && t.port == []) = true := by
  decide

/-- R123: `STATUS = 0x0402` becomes 0. -/
theorem test_clr : steps ({ State.reset with err := some .param, done := true }.withFetchWord 32 0x01000000)
    (fun t => statusWord t == 0) = true := by decide

/-- V35: while an error is pending `0x01000001` is dropped with `HAZ`. -/
theorem test_clr_reserved : steps ({ State.reset with err := some .illegal, done := true }.withFetchWord 32 0x01000001)
    (fun t => statusWord t == 0x0106) = true := by decide

/-- V36. -/
theorem test_srst : steps ({ State.reset with err := some .illegal, nRows := 4, mem := [(0x200, 1)] }.withFetchWord 32 0x02000000)
    (fun t => statusWord t == 0 && t.nRows == 0 && t.mem == [] && t.S[0] == 0) = true := by decide

/-- V35: an unassigned opcode leaves `STATUS = 0x0102`. -/
theorem test_illegal : steps (State.reset.withFetchWord 32 0x38000000) (fun t => statusWord t == 0x0102) = true := by decide

/-- V35: a host read of a misaligned address ends in ERROR. -/
theorem test_misaligned : steps { State.reset with port := [⟨false, .read 4 8⟩] } (fun t => t.resp == some .error) = true := by
  decide

/-! ### Witnesses: for each statement with hypotheses, a state and operands that meet them -/

/-- The state after reset is ready. -/
theorem reset_ready : Ready State.reset := ⟨rfl, rfl⟩

/-- The state after reset with dimensions, and with `n` zero bytes from `a`. -/
def zeros (R C : Word) (a n : Nat) : State :=
  { State.reset with nRows := R, nCols := C, mem := cellsFrom a (List.replicate n 0) }

theorem blocks_enough : 16 ≤ Config.params.mBlocks := Nat.le_add_left _ _

theorem blocks_bounded : Config.params.mBlocks ≤ 1048576 := by
  have := Config.params.mExtra.isLt
  unfold Params.mBlocks
  omega

theorem pad_enough : 128 ≤ Config.params.padMax := by
  unfold Params.padMax
  omega

theorem pwd_bounded : Config.params.pwdMax ≤ 4096 := by
  have := Config.params.pwdWords.isLt
  unfold Params.pwdMax
  omega

theorem out_bounded : Config.params.outMax ≤ 4096 := by
  have := Config.params.outWords.isLt
  unfold Params.outMax
  omega

/-- Small dimensions pass `CheckGeom` whatever the parameters. -/
theorem small_geometry {s : State} (h1 : 0 < s.nRows.toInt) (h2 : 0 < s.nCols.toInt)
    (h3 : s.nRows.toNat * s.nCols.toNat ≤ 16) : Geometry s := ⟨h1, h2, le_trans h3 blocks_enough⟩

theorem witness_DecodeOfEncode : (Instr.dpxwander 255 0 7).wf = true := by decide

theorem witness_EncodeOfDecode : decode 0x2200FFFF#64 = .ok (.abss 65535) := by decide

theorem witness_WordIsTheRowItMatches :
    specRows[0]? = some (0, 0xFFFFFFFF) ∧ specRows[22]? = some (0x4F000000, 0xFFFFFFFF) := by decide

/-- After reset, with a `CMD` write of `v` pending. -/
def offered (v : Word) (rest : List PortEvent) : State := { State.reset with port := ⟨false, .write 0 8 v⟩ :: rest }

theorem witness_StepRunsTheDecodedCommand : (offered 0x12000000 []).running = none ∧
    (offered 0x12000000 []).port = ⟨false, .write 0 8 0x12000000⟩ :: [] ∧ NotEarly [] ∧
    decode 0x12000000 = .ok .permF := ⟨rfl, rfl, nofun, by decide⟩

/-- The other case of the premise: `CLR` runs inside its write, also before an early action. -/
theorem witness_StepRuns_early : (offered 0x01000000 [⟨true, .read 8 8⟩]).running = none ∧
    (offered 0x01000000 [⟨true, .read 8 8⟩]).port = ⟨false, .write 0 8 0x01000000⟩ :: [⟨true, .read 8 8⟩] ∧
    starts Config.params .clr (offered 0x01000000 [⟨true, .read 8 8⟩]) = false ∧
    decode 0x01000000 = .ok .clr := ⟨rfl, rfl, rfl, by decide⟩

theorem witness_IllegalWordRaisesIllegal : (offered 0x38000000 []).running = none ∧
    (offered 0x38000000 []).port = ⟨false, .write 0 8 0x38000000⟩ :: [] ∧
    decode 0x38000000 = .error .unassignedOpcode := ⟨rfl, rfl, by decide⟩

theorem witness_BusyWindowDoesNotChangeTheResult :
    decode 0 = .ok .nop ∧
    starts Config.params .nop (offered 0 (List.replicate (0 + 1) ⟨true, .read 8 8⟩ ++ [])) = true ∧ NotEarly [] ∧
    (offered 0 (List.replicate (0 + 1) ⟨true, .read 8 8⟩ ++ [])).port =
      ⟨false, .write 0 8 0⟩ :: (List.replicate (0 + 1) ⟨true, .read 8 8⟩ ++ []) := ⟨by decide, rfl, nofun, rfl⟩

/-- The clauses about any early action: `NOP` starts, and the host writes OUTLEN while it runs. -/
theorem witness_BusyWindow_access :
    decode 0 = .ok .nop ∧ starts Config.params .nop (offered 0 ([⟨true, .write 0x10 8 5⟩] ++ [])) = true ∧ NotEarly [] ∧
    [(⟨true, .write 0x10 8 5⟩ : PortEvent)] ≠ [] ∧
    (∀ a ∈ [(⟨true, .write 0x10 8 5⟩ : PortEvent)], a.early = true ∧ a.act ≠ .reset) ∧
    (offered 0 ([⟨true, .write 0x10 8 5⟩] ++ [])).port = ⟨false, .write 0 8 0⟩ :: ([⟨true, .write 0x10 8 5⟩] ++ []) := by
  refine ⟨by decide, rfl, nofun, nofun, ?_, rfl⟩
  intro a ha
  rw [List.mem_singleton.1 ha]
  exact ⟨rfl, nofun⟩

/-- The clause about the outcome: a command that is looked at. -/
theorem witness_BusyWindow_outcome : Ready State.reset ∧ ¬ AtOnce .nop := ⟨reset_ready, by simp [AtOnce]⟩

/-- `NOP` runs and the host acts. -/
def interrupted (a : PortAction) : State := { State.reset with running := some .nop, port := [⟨true, a⟩] }

/-- The clause about completion, at the completion of a command that a `HAZ`-setting access has met. -/
theorem witness_BusyWindow_completion :
    ({ State.reset with running := some .nop, haz := true, offProtocol := true }).running = some .nop ∧
    NotEarly ({ State.reset with running := some .nop, haz := true, offProtocol := true }).port := ⟨rfl, nofun⟩

/-- The clause about the mark: a step that sets it and a step from a marked state. -/
theorem witness_BusyAccess_mark :
    (∃ t, step (interrupted (.write 0x10 8 5)) = .next t ∧ t.offProtocol = true) ∧
    (∃ t, step { interrupted (.read 8 8) with offProtocol := true } = .next t) := ⟨⟨_, rfl, rfl⟩, _, rfl⟩

theorem witness_BusyAccessOnlySetsHazard :
    (interrupted (.read 8 8)).running = some .nop ∧ (interrupted (.read 0x178 8)).running = some .nop ∧
    (interrupted (.write 0x178 8 5)).running = some .nop ∧
    Mapped (0x178 : Addr).toNat ∧ (0x178 : Addr).toNat % 8 = 0 ∧ (0x178 : Addr) ≠ 8 ∧
    (interrupted (.read 8 8)).port = ⟨true, .read 8 8⟩ :: [] ∧
    (interrupted (.read 0x178 8)).port = ⟨true, .read 0x178 8⟩ :: [] ∧
    (interrupted (.write 0x178 8 5)).port = ⟨true, .write 0x178 8 5⟩ :: [] := by
  refine ⟨rfl, rfl, rfl, ?_, by decide, by decide, rfl, rfl, rfl⟩
  exact .inr (.inl ⟨by decide, by decide⟩)

theorem witness_PendingErrorDropsCommands :
    ({ offered 0 [] with err := some .param }).running = none ∧ ({ offered 0 [] with err := some .param }).err ≠ none ∧
    ({ offered 0 [] with err := some .param }).port = ⟨false, .write 0 8 0⟩ :: [] ∧
    (0 : Word) ≠ 0x01000000 ∧ (0 : Word) ≠ 0x02000000 := ⟨rfl, nofun, rfl, by decide, by decide⟩

theorem witness_RefusedCommandChangesOnlyStatus : Ready State.reset ∧
    exec (.hpReset 0) State.reset = .next (raiseError .operand State.reset) ∧
    (raiseError .operand State.reset).err ≠ none := ⟨reset_ready, rfl, nofun⟩

theorem witness_LookedAtCommandEndsDone : Ready State.reset ∧ ¬ AtOnce .nop ∧
    exec .nop State.reset = .next (finished State.reset) := ⟨reset_ready, by simp [AtOnce], rfl⟩

theorem witness_FaultNamesAnUnwrittenLocation :
    exec (.hpUpdate 1 1) { State.reset with acc := State.reset.acc.set 0 (some []) } = .fault (.noValue 0x200) := by rfl

/-- One state for each clause, at the value where it begins. -/
theorem witness_GeometryErrorsInOrder :
    (Ready (zeros 0 1 0 0) ∧ ¬ (0 < (zeros 0 1 0 0).nRows.toInt ∧ 0 < (zeros 0 1 0 0).nCols.toInt)) ∧
    (Ready (zeros 0x200000 1 0 0) ∧ (0 < (zeros 0x200000 1 0 0).nRows.toInt ∧ 0 < (zeros 0x200000 1 0 0).nCols.toInt) ∧
      Config.params.mBlocks < (zeros 0x200000 1 0 0).nRows.toNat * (zeros 0x200000 1 0 0).nCols.toNat) ∧
    (Ready (zeros 1 1 0 0) ∧ Geometry (zeros 1 1 0 0) ∧ (¬ 1 < (zeros 1 1 0 0).nRows.toNat)) := by
  refine ⟨⟨⟨rfl, rfl⟩, by decide⟩, ⟨⟨rfl, rfl⟩, by decide, ?_⟩, ⟨rfl, rfl⟩, ?_, by decide⟩
  · exact lt_of_le_of_lt blocks_bounded (by decide)
  · exact small_geometry (by decide) (by decide) (by decide)

theorem witness_ParameterErrorsInOrder :
    (Ready (zeros 0 1 0 0) ∧ ¬ (0 < (1 : Word).toInt ∧ 0 < (zeros 0 1 0 0).nRows.toInt ∧ 0 < (zeros 0 1 0 0).nCols.toInt)) ∧
    (Ready (zeros 1 1 0 0) ∧ (0 < (1 : Word).toInt ∧ 0 < (zeros 1 1 0 0).nRows.toInt ∧ 0 < (zeros 1 1 0 0).nCols.toInt) ∧
      ¬ ∃ k, 0 < k ∧ (zeros 1 1 0 0).nRows.toNat = 2 ^ k) ∧
    (Ready (zeros 0x200000 1 0 0) ∧
      (0 < (1 : Word).toInt ∧ 0 < (zeros 0x200000 1 0 0).nRows.toInt ∧ 0 < (zeros 0x200000 1 0 0).nCols.toInt) ∧
      (∃ k, 0 < k ∧ (zeros 0x200000 1 0 0).nRows.toNat = 2 ^ k) ∧
      Config.params.mBlocks < (zeros 0x200000 1 0 0).nRows.toNat * (zeros 0x200000 1 0 0).nCols.toNat) := by
  refine ⟨⟨⟨rfl, rfl⟩, by decide⟩, ⟨⟨rfl, rfl⟩, by decide, ?_⟩, ⟨rfl, rfl⟩, by decide, ⟨21, by decide, by decide⟩, ?_⟩
  · rintro ⟨k, hk, h⟩
    have : 2 ^ 1 ≤ 2 ^ k := Nat.pow_le_pow_right (by decide) hk
    have h1 : (zeros 1 1 0 0).nRows.toNat = 1 := rfl
    omega
  · exact lt_of_le_of_lt blocks_bounded (by decide)

/-- Two rows, one column, `TIMECOST = 1`, a matrix of zeros: what the composite commands need. -/
def composite : State := { zeros 2 1 0x10000 192 with timeCost := 1 }

theorem composite_parameters (t : Word) (h : 0 < t.toInt) : Parameters t composite :=
  ⟨h, small_geometry (by decide) (by decide) (by decide), 1, by decide, by decide⟩

theorem composite_pad : PadFits composite :=
  ⟨Nat.zero_le _, Nat.zero_le _, le_trans (by decide) pad_enough⟩

theorem composite_held : Held composite.mem 0x10000 (96 * (composite.nRows.toNat * composite.nCols.toNat)) := by
  unfold Held
  decide +kernel

theorem witness_ArgumentErrorsOfTheOthers :
    (Ready State.reset ∧ State.reset.nBlk.toNat ≤ 0) ∧
    Config.params.outMax < ({ State.reset with outLen := 0x2000 }).outLen.toNat ∧
    (¬ PadFits { State.reset with pwdLen := 0x2000 }) ∧
    (Parameters ({ composite with prev := 2 }).timeCost { composite with prev := 2 } ∧
      ({ composite with prev := 2 }).nRows.toNat ≤ ({ composite with prev := 2 }).prev.toNat) ∧
    (Parameters ({ composite with outLen := 0x2000 }).timeCost { composite with outLen := 0x2000 } ∧
      ¬ (PadFits { composite with outLen := 0x2000 } ∧
        ({ composite with outLen := 0x2000 }).outLen.toNat ≤ Config.params.outMax)) := by
  refine ⟨⟨reset_ready, le_refl _⟩, lt_of_le_of_lt out_bounded (by decide), ?_, ⟨composite_parameters 1 (by decide), ?_⟩,
    ⟨composite_parameters 1 (by decide), ?_⟩⟩
  · exact fun h => absurd (le_trans h.1 pwd_bounded) (by decide)
  · decide
  · exact fun h => absurd (le_trans h.2 out_bounded) (by decide)

/-- The operands of each clause; unit 1 has not been reset after reset, and `HDRLEN` is 0. -/
theorem witness_ChainErrorsInOrder : Ready State.reset ∧ (¬ (1 ≤ 6 ∧ 6 ≤ 5)) ∧ (¬ (1 ≤ 1 ∧ 1 ≤ 5 ∧ 3 ≤ 2)) ∧
    (1 ≤ 1 ∧ 1 ≤ 5) ∧ State.reset.hdrLen ≠ 80 ∧ (1 = (0 : Fin 5).val + 1) ∧ 2 ≤ 2 ∧ State.reset.acc[0] = none ∧
    (¬ (1 ≤ 5 ∧ 5 ≤ 5 ∧ 1 ≤ 3 ∧ 3 ≤ 2)) ∧ (1 ≤ 1 ∧ 1 ≤ 2) ∧
    (¬ (1 ≤ 5 ∧ 5 ≤ 5 ∧ 1 ≤ 2 ∧ 1 ≤ 1 ∧ 1 ≤ 2 ∧ 1 ≠ 1)) :=
  ⟨reset_ready, by decide, by decide, by decide, by decide, rfl, le_refl _, rfl, by decide, by decide, by decide⟩

theorem witness_NopCompletes : Ready State.reset := reset_ready

theorem witness_ClrClearsTheStatus : ({ State.reset with err := some .hpSeq, haz := true }).running = none := rfl

theorem witness_SrstAndResetInputReset : ({ State.reset with err := some .hpSeq }).running = none ∧
    (interrupted .reset).port = ⟨true, .reset⟩ :: [] ∧ ((interrupted .reset).running = none ∨ true = true) :=
  ⟨rfl, rfl, .inr rfl⟩

theorem witness_QrAppliesOneQuarterRound : Ready State.reset ∧ specTuples[(7 : Fin 8).val]? = some (3, 4, 9, 14) :=
  ⟨reset_ready, by decide⟩

theorem witness_PermAppliesItsRounds : Ready State.reset := reset_ready

theorem witness_QuarterRoundOrder : Ready State.reset ∧ [3, 1, 0, 2].Perm [0, 1, 2, 3] ∧ [7, 4, 6, 5].Perm [4, 5, 6, 7] ∧
    (0 : Fin 8) < 4 ∧ (4 : Fin 8) ≤ 7 := ⟨reset_ready, by decide, by decide, by decide, by decide⟩

theorem witness_SequencerRunsNRounds : (1 : BitVec 4) ≠ 0 ∧ (12 : BitVec 4) ≠ 0 := by decide

theorem witness_SinitSetsTheInitialState : Ready State.reset := reset_ready

theorem witness_AbsfAbsorbsABlock : Ready (zeros 1 1 0x10000 96) ∧ Geometry (zeros 1 1 0x10000 96) ∧
    0 < (zeros 1 1 0x10000 96).nRows.toNat ∧ 0 < (zeros 1 1 0x10000 96).nCols.toNat ∧
    HoldsBlock (zeros 1 1 0x10000 96).mem (zeros 1 1 0x10000 96).nCols.toNat 0 0 (fun _ => 0) := by
  refine ⟨⟨rfl, rfl⟩, small_geometry (by decide) (by decide) (by decide), by decide, by decide, ?_⟩
  unfold HoldsBlock HoldsWord
  decide +kernel

/-- One safe block of zeros in PADBUF. -/
def padded : State := { zeros 0 0 0x4000 64 with nBlk := 1 }

theorem witness_AbssAbsorbsASafeBlock : Ready padded ∧ 0 < padded.nBlk.toNat ∧
    (∀ k : Fin 8, HoldsWord padded.mem (0x4000 + 64 * 0 + 8 * k.val) 0) := by
  refine ⟨⟨rfl, rfl⟩, by decide, ?_⟩
  unfold HoldsWord
  decide +kernel

theorem witness_SqzSqueezesIntoOut : Ready State.reset ∧ State.reset.outLen.toNat ≤ Config.params.outMax :=
  ⟨reset_ready, Nat.zero_le _⟩

/-- `OUTLEN` at its bound. -/
theorem witness_SqzSqueezesIntoOut_full :
    ({ State.reset with outLen := BitVec.ofNat 64 Config.params.outMax }).outLen.toNat ≤ Config.params.outMax :=
  (BitVec.toNat_ofNat Config.params.outMax 64).trans_le (Nat.mod_le _ _)

theorem witness_PadWritesThePaddedInput : Ready composite ∧ PadFits composite ∧
    ([] : List Byte).length = composite.pwdLen.toNat ∧ HoldsBytes composite.mem 0x1000 [] ∧
    ([] : List Byte).length = composite.saltLen.toNat ∧ HoldsBytes composite.mem 0x2000 [] :=
  ⟨⟨rfl, rfl⟩, composite_pad, rfl, nofun, rfl, nofun⟩

theorem witness_Sqrow0FillsTheRow : Ready (zeros 1 4 0 0) ∧ Geometry (zeros 1 4 0 0) ∧
    0 < (zeros 1 4 0 0).nRows.toNat :=
  ⟨⟨rfl, rfl⟩, small_geometry (by decide) (by decide) (by decide), by decide⟩

/-- Three rows of one column, all zero. -/
def threeRows : State := zeros 3 1 0x10000 288

theorem threeRows_geometry : Geometry threeRows := small_geometry (by decide) (by decide) (by decide)

theorem threeRows_held : ∀ r, r < 3 → HoldsRow threeRows.mem threeRows.nCols.toNat r (fun _ _ => 0) := by
  unfold HoldsRow HoldsBlock HoldsWord
  decide +kernel

theorem witness_Dpxrow1BuildsTheRow : Ready threeRows ∧ Geometry threeRows ∧ 0 < threeRows.nRows.toNat ∧
    1 < threeRows.nRows.toNat ∧ 0 ≠ 1 ∧ HoldsRow threeRows.mem threeRows.nCols.toNat 0 (fun _ _ => 0) :=
  ⟨⟨rfl, rfl⟩, threeRows_geometry, by decide, by decide, by decide, threeRows_held 0 (by decide)⟩

theorem witness_DpxsetupBuildsTheRow : Ready threeRows ∧ Geometry threeRows ∧ 1 < threeRows.nRows.toNat ∧
    0 < threeRows.nRows.toNat ∧ 2 < threeRows.nRows.toNat ∧ 1 ≠ 0 ∧ 1 ≠ 2 ∧ 0 ≠ 2 ∧
    HoldsRow threeRows.mem threeRows.nCols.toNat 1 (fun _ _ => 0) ∧
    HoldsRow threeRows.mem threeRows.nCols.toNat 0 (fun _ _ => 0) :=
  ⟨⟨rfl, rfl⟩, threeRows_geometry, by decide, by decide, by decide, by decide, by decide, by decide,
    threeRows_held 1 (by decide), threeRows_held 0 (by decide)⟩

/-- Distinct rows (`DPXWANDER 0, 1, 2`) and the same row three times (`DPXWANDER 2, 2, 2`). -/
theorem witness_DpxwanderUpdatesTheRows : Ready threeRows ∧ Geometry threeRows ∧ 0 < threeRows.nRows.toNat ∧
    1 < threeRows.nRows.toNat ∧ 2 < threeRows.nRows.toNat ∧
    HoldsRow threeRows.mem threeRows.nCols.toNat 0 (fun _ _ => 0) ∧
    HoldsRow threeRows.mem threeRows.nCols.toNat 1 (fun _ _ => 0) ∧
    HoldsRow threeRows.mem threeRows.nCols.toNat 2 (fun _ _ => 0) ∧ 1 ≠ 2 ∧ 2 = 2 ∧ 0 < threeRows.nCols.toNat :=
  ⟨⟨rfl, rfl⟩, threeRows_geometry, by decide, by decide, by decide, threeRows_held 0 (by decide),
    threeRows_held 1 (by decide), threeRows_held 2 (by decide), by decide, rfl, by decide⟩

theorem witness_SetupCompletes : Ready composite ∧ Parameters 1 composite :=
  ⟨⟨rfl, rfl⟩, composite_parameters 1 (by decide)⟩

theorem witness_SetupIsItsUnitCommands : Ready composite ∧ Parameters 1 composite := witness_SetupCompletes

theorem witness_WanderCompletes : Ready composite ∧ Parameters composite.timeCost composite ∧
    composite.prev.toNat < composite.nRows.toNat ∧
    Held composite.mem 0x10000 (96 * (composite.nRows.toNat * composite.nCols.toNat)) :=
  ⟨⟨rfl, rfl⟩, composite_parameters 1 (by decide), by decide, composite_held⟩

theorem witness_WanderIsTheWalkByHand : Ready composite ∧ Parameters composite.timeCost composite ∧
    composite.prev.toNat < composite.nRows.toNat ∧
    Held composite.mem 0x10000 (96 * (composite.nRows.toNat * composite.nCols.toNat)) := witness_WanderCompletes

/-- The parameters may leave PWD, SALT and OUT empty, so the witness takes lengths 0. -/
theorem witness_DeriveCompletes : Ready composite ∧ Parameters composite.timeCost composite ∧ PadFits composite ∧
    composite.outLen.toNat ≤ Config.params.outMax ∧ InputsHeld composite :=
  ⟨⟨rfl, rfl⟩, composite_parameters 1 (by decide), composite_pad, Nat.zero_le _, nofun, nofun⟩

theorem witness_DeriveIsTheDerivationByHand : Ready composite ∧ Parameters composite.timeCost composite ∧
    PadFits composite ∧ composite.outLen.toNat ≤ Config.params.outMax ∧ InputsHeld composite := witness_DeriveCompletes

/-- `composite` and a state that differs from it in `S`, in the matrix and in a sequencer register. -/
def other : State := { composite with S := Vector.replicate 16 7, mem := [], rowa := 5 }

theorem witness_DeriveForgetsTheScratch : Ready composite ∧ Ready other ∧ Parameters composite.timeCost composite ∧
    PadFits composite ∧ composite.outLen.toNat ≤ Config.params.outMax ∧ InputsHeld composite ∧
    other.outLen = composite.outLen ∧ other.pwdLen = composite.pwdLen ∧ other.saltLen = composite.saltLen ∧
    other.timeCost = composite.timeCost ∧ other.nRows = composite.nRows ∧ other.nCols = composite.nCols ∧
    (∀ k, k < composite.pwdLen.toNat → memGet? other.mem (0x1000 + k) = memGet? composite.mem (0x1000 + k)) ∧
    (∀ k, k < composite.saltLen.toNat → memGet? other.mem (0x2000 + k) = memGet? composite.mem (0x2000 + k)) :=
  ⟨⟨rfl, rfl⟩, ⟨rfl, rfl⟩, composite_parameters 1 (by decide), composite_pad, Nat.zero_le _, ⟨nofun, nofun⟩, rfl, rfl,
    rfl, rfl, rfl, rfl, nofun, nofun⟩

theorem witness_HpResetEmptiesTheUnit : Ready State.reset := reset_ready

/-- BUFA is held and unit 1 has been reset; HDR is held and `HDRLEN` is 80. -/
def fed : State := { zeros 0 0 0x200 64 with acc := State.reset.acc.set 0 (some []) }

/-- HDR is held and `HDRLEN` is 80. -/
def headed : State := { zeros 0 0 0x180 80 with hdrLen := 80, acc := State.reset.acc.set 0 (some []) }

theorem headed_holds : HoldsBytes headed.mem 0x180 (List.replicate 80 0) := by
  unfold HoldsBytes
  decide +kernel

theorem fed_holds : HoldsBytes fed.mem 0x200 (List.replicate 32 0) := by
  unfold HoldsBytes
  decide +kernel

theorem witness_HpUpdateAppendsTheBuffer :
    (Ready fed ∧ SrcRange 1 0x200 32 ∧ (1 = 0 → fed.hdrLen = 80) ∧ fed.acc[(0 : Fin 5)] = some [] ∧
      (List.replicate 32 (0 : Byte)).length = 32 ∧ HoldsBytes fed.mem 0x200 (List.replicate 32 0)) ∧
    (Ready headed ∧ SrcRange 0 0x180 80 ∧ (0 = 0 → headed.hdrLen = 80) ∧ headed.acc[(0 : Fin 5)] = some [] ∧
      (List.replicate 80 (0 : Byte)).length = 80 ∧ HoldsBytes headed.mem 0x180 (List.replicate 80 0)) :=
  ⟨⟨⟨rfl, rfl⟩, .inr (.inl ⟨rfl, rfl, rfl⟩), nofun, rfl, rfl, fed_holds⟩,
    ⟨rfl, rfl⟩, .inl ⟨rfl, rfl, rfl⟩, fun _ => rfl, rfl, rfl, headed_holds⟩

/-- The clauses of the second part: the last byte of the source is the one that is missing. For the password the
parameters may leave PWD empty, so its capacity is a hypothesis. -/
theorem witness_FaultNames_sources :
    (Ready (zeros 1 1 0x10000 95) ∧ Geometry (zeros 1 1 0x10000 95) ∧ 0 < (zeros 1 1 0x10000 95).nRows.toNat ∧
      0 < (zeros 1 1 0x10000 95).nCols.toNat ∧
      FirstMissing (zeros 1 1 0x10000 95).mem (0x10000 + 96 * (0 * (zeros 1 1 0x10000 95).nCols.toNat + 0)) 96 0x1005F) ∧
    (Ready { zeros 0 0 0x4000 63 with nBlk := 1 } ∧ 0 < ({ zeros 0 0 0x4000 63 with nBlk := 1 }).nBlk.toNat ∧
      FirstMissing ({ zeros 0 0 0x4000 63 with nBlk := 1 }).mem (0x4000 + 64 * 0) 64 0x403F) ∧
    (Ready { fed with mem := cellsFrom 0x200 (List.replicate 31 0) } ∧ SrcRange 1 0x200 32 ∧ DstBase 2 0x220 ∧ 1 ≠ 2 ∧
      ({ fed with mem := cellsFrom 0x200 (List.replicate 31 0) }).acc[(0 : Fin 5)] = some [] ∧
      FirstMissing ({ fed with mem := cellsFrom 0x200 (List.replicate 31 0) }).mem 0x200 32 0x21F) ∧
    (Ready { headed with mem := cellsFrom 0x180 (List.replicate 79 0) } ∧
      ({ headed with mem := cellsFrom 0x180 (List.replicate 79 0) }).hdrLen = 80 ∧
      FirstMissing ({ headed with mem := cellsFrom 0x180 (List.replicate 79 0) }).mem 0x180 80 0x1CF) ∧
    (Ready (zeros 2 1 0x10000 95) ∧ Geometry (zeros 2 1 0x10000 95) ∧ 0 < (zeros 2 1 0x10000 95).nRows.toNat ∧
      1 < (zeros 2 1 0x10000 95).nRows.toNat ∧
      FirstMissing (zeros 2 1 0x10000 95).mem (rowBase (zeros 2 1 0x10000 95).nCols.toNat 0)
        (96 * (zeros 2 1 0x10000 95).nCols.toNat) 0x1005F) := by
  unfold FirstMissing Held
  refine ⟨⟨⟨rfl, rfl⟩, small_geometry (by decide) (by decide) (by decide), by decide, by decide, ?_⟩,
    ⟨⟨rfl, rfl⟩, by decide, ?_⟩, ⟨⟨rfl, rfl⟩, .inr (.inl ⟨rfl, rfl, rfl⟩), .inr ⟨rfl, rfl⟩, by decide, rfl, ?_⟩,
    ⟨⟨rfl, rfl⟩, rfl, ?_⟩, ⟨rfl, rfl⟩, small_geometry (by decide) (by decide) (by decide), by decide, by decide, ?_⟩ <;>
  decide +kernel

/-- One byte of password and of salt. -/
def oneByteEach (m : Memory) : State := { composite with pwdLen := 1, saltLen := 1, mem := m }

theorem oneByteEach_pad (m : Memory) (hp : 8 ≤ Config.params.pwdMax) (hs : 8 ≤ Config.params.saltMax) :
    PadFits (oneByteEach m) := by
  have h : blocksOf (oneByteEach []) = 1 := by decide
  exact ⟨le_trans (by decide : 1 ≤ 8) hp, le_trans (by decide : 1 ≤ 8) hs, le_trans (by rw [show blocksOf (oneByteEach m) = 1 from h]; decide) pad_enough⟩

theorem witness_FaultNames_input (hp : 8 ≤ Config.params.pwdMax) (hs : 8 ≤ Config.params.saltMax) :
    Ready (oneByteEach []) ∧ PadFits (oneByteEach []) ∧
    FirstMissing (oneByteEach []).mem 0x1000 (oneByteEach []).pwdLen.toNat 0x1000 ∧
    PadFits (oneByteEach [(0x1000, 0)]) ∧
    Held (oneByteEach [(0x1000, 0)]).mem 0x1000 (oneByteEach [(0x1000, 0)]).pwdLen.toNat ∧
    FirstMissing (oneByteEach [(0x1000, 0)]).mem 0x2000 (oneByteEach [(0x1000, 0)]).saltLen.toNat 0x2000 ∧
    Parameters (oneByteEach []).timeCost (oneByteEach []) ∧ (oneByteEach []).outLen.toNat ≤ Config.params.outMax := by
  refine ⟨⟨rfl, rfl⟩, oneByteEach_pad _ hp hs, ⟨by decide, by decide, rfl, nofun⟩, oneByteEach_pad _ hp hs, ?_,
    ⟨by decide, by decide, rfl, nofun⟩, composite_parameters 1 (by decide), Nat.zero_le _⟩
  unfold Held
  decide

/-- A password and a salt that are not empty, where the parameters have room for them. -/
theorem witness_PadWritesThePaddedInput_nonempty (hp : 8 ≤ Config.params.pwdMax) (hs : 8 ≤ Config.params.saltMax) :
    Ready (oneByteEach [(0x1000, 7), (0x2000, 9)]) ∧ PadFits (oneByteEach [(0x1000, 7), (0x2000, 9)]) ∧
    [(7 : Byte)].length = (oneByteEach [(0x1000, 7), (0x2000, 9)]).pwdLen.toNat ∧
    HoldsBytes (oneByteEach [(0x1000, 7), (0x2000, 9)]).mem 0x1000 [7] ∧
    [(9 : Byte)].length = (oneByteEach [(0x1000, 7), (0x2000, 9)]).saltLen.toNat ∧
    HoldsBytes (oneByteEach [(0x1000, 7), (0x2000, 9)]).mem 0x2000 [9] := by
  unfold HoldsBytes
  exact ⟨⟨rfl, rfl⟩, oneByteEach_pad _ hp hs, rfl, by decide, rfl, by decide⟩

theorem witness_HpDigestWritesTheDigest : Ready fed ∧ DstBase 2 0x220 ∧ fed.acc[(0 : Fin 5)] = some [] :=
  ⟨⟨rfl, rfl⟩, .inr ⟨rfl, rfl⟩, rfl⟩

theorem witness_HstageRunsOneStage : Ready fed ∧ SrcRange 1 0x200 32 ∧ DstBase 2 0x220 ∧ 1 ≠ 2 ∧
    (1 = 0 → fed.hdrLen = 80) ∧ (List.replicate 32 (0 : Byte)).length = 32 ∧
    HoldsBytes fed.mem 0x200 (List.replicate 32 0) :=
  ⟨⟨rfl, rfl⟩, .inr (.inl ⟨rfl, rfl, rfl⟩), .inr ⟨rfl, rfl⟩, by decide, nofun, rfl, fed_holds⟩

theorem witness_HashPseudoCommandIsHstage : Ready fed ∧ ∃ t, exec (.hstage 1 1 2) fed = .next t ∧ t.err = none :=
  ⟨⟨rfl, rfl⟩, _, rfl, rfl⟩

theorem witness_PowhashRunsTheChain : Ready headed ∧ headed.hdrLen = 80 ∧ (List.replicate 80 (0 : Byte)).length = 80 ∧
    HoldsBytes headed.mem 0x180 (List.replicate 80 0) := ⟨⟨rfl, rfl⟩, rfl, rfl, headed_holds⟩

theorem witness_PowhashDependsOnTheHeaderAlone : Ready headed ∧ Ready { headed with rowa := 5, acc := State.reset.acc } ∧
    headed.hdrLen = 80 ∧ ({ headed with rowa := 5, acc := State.reset.acc }).hdrLen = 80 ∧ Held headed.mem 0x180 80 ∧
    (∀ k, k < 80 → memGet? ({ headed with rowa := 5, acc := State.reset.acc }).mem (0x180 + k) =
      memGet? headed.mem (0x180 + k)) := by
  refine ⟨⟨rfl, rfl⟩, ⟨rfl, rfl⟩, rfl, rfl, ?_, fun _ _ => rfl⟩
  unfold Held
  decide +kernel

/-- After reset, with one action pending. -/
def acting (a : PortAction) : State := { State.reset with port := [⟨false, a⟩] }

/-- The width, the alignment and the map, each broken alone, by a read and by a write. -/
theorem witness_BadTransactionsEndInError :
    ((acting (.read 8 4)).running = none ∨ false = true) ∧ (4 ≠ 8 ∨ (8 : Addr).toNat % 8 ≠ 0 ∨ ¬ Mapped (8 : Addr).toNat) ∧
    (8 ≠ 8 ∨ (0x104 : Addr).toNat % 8 ≠ 0 ∨ ¬ Mapped (0x104 : Addr).toNat) ∧ ¬ Mapped (0x88 : Addr).toNat ∧
    (acting (.read 8 4)).port = ⟨false, .read 8 4⟩ :: [] ∧
    (acting (.write 0x88 8 0)).port = ⟨false, .write 0x88 8 0⟩ :: [] := by
  refine ⟨.inl rfl, .inl (by decide), .inr (.inl (by decide)), ?_, rfl, rfl⟩
  simp [Mapped]

/-- While a command runs. -/
theorem witness_BadTransactions_busy : ((interrupted (.write 0x88 8 0)).running = none ∨ true = true) ∧
    ¬ Mapped (0x88 : Addr).toNat ∧ (interrupted (.write 0x88 8 0)).port = ⟨true, .write 0x88 8 0⟩ :: [] :=
  ⟨.inr rfl, by simp [Mapped], rfl⟩

/-- V35: while a command runs, a misaligned read ends in ERROR and sets no `HAZ`. -/
theorem test_misaligned_busy : steps (interrupted (.read 4 8)) (fun t =>
    t.resp == some .error && t.haz == false && t.offProtocol == false && busy t) = true := by decide

/-- V35: while a command runs, `CLR` is dropped with `HAZ`, and the run is marked. -/
theorem test_busy_write : steps (interrupted (.write 0 8 0x01000000)) (fun t =>
    t.resp == some .okay && t.haz && t.offProtocol && busy t) = true := by decide

/-- The registers whose values a read returns, and a word of `S`. -/
theorem witness_HostReads_registers : registerValue State.reset (0x60 : Addr).toNat = some State.reset.rowa ∧
    (0x178 : Addr).toNat = 0x100 + 8 * (15 : Fin 16).val := ⟨rfl, rfl⟩

/-- A register that a write sets, and a word of `S`. -/
theorem witness_HostWrites_registers :
    withRegister (0x40 : Addr).toNat 80 State.reset = some { State.reset with hdrLen := 80 } ∧
    (0x100 : Addr).toNat = 0x100 + 8 * (0 : Fin 16).val := ⟨rfl, rfl⟩

/-- BUFA, whose address is in storage and writable. -/
theorem bufA_mapped : Mapped (0x200 : Addr).toNat := .inr (.inr (.inl ⟨by decide, by decide⟩))

/-- A register, a word of `S` and a word of storage. -/
theorem witness_HostReadsWhatItWrote :
    ({ State.reset with port := [⟨false, .write 0x200 8 5⟩, ⟨false, .read 0x200 8⟩] }).running = none ∧
    ({ State.reset with port := [⟨false, .write 0x200 8 5⟩, ⟨false, .read 0x200 8⟩] }).port =
      ⟨false, .write 0x200 8 5⟩ :: ⟨false, .read 0x200 8⟩ :: [] ∧
    (0x200 : Addr).toNat % 8 = 0 ∧ Writable (0x200 : Addr).toNat ∧ Writable (0x10 : Addr).toNat ∧
    Writable (0x100 : Addr).toNat := by
  refine ⟨rfl, rfl, by decide, ⟨bufA_mapped, by decide, by decide⟩, ⟨.inl (by decide), by decide, by decide⟩, ?_⟩
  exact ⟨.inr (.inl ⟨by decide, by decide⟩), by decide, by decide⟩

theorem witness_HostWritesAreLittleEndian : (acting (.write 0x200 8 5)).running = none ∧ (0x200 : Addr).toNat % 8 = 0 ∧
    Storage (0x200 : Addr).toNat ∧ (acting (.write 0x200 8 5)).port = ⟨false, .write 0x200 8 5⟩ :: [] :=
  ⟨rfl, by decide, ⟨bufA_mapped, by decide⟩, rfl⟩

theorem witness_HostReadsHaveNoSideEffect : (acting (.read 0x200 8)).running = none ∧
    (acting (.read 0x200 8)).port = ⟨false, .read 0x200 8⟩ :: [] ∧ (0x200 : Addr).toNat % 8 = 0 ∧
    Storage (0x200 : Addr).toNat := ⟨rfl, rfl, by decide, bufA_mapped, by decide⟩

theorem witness_ReadOnlyRegistersIgnoreWrites : (acting (.write 0x48 8 5)).running = none ∧
    (0x48 : Addr).toNat % 8 = 0 ∧ (0x48 ≤ (0x48 : Addr).toNat ∧ (0x48 : Addr).toNat < 0x88) ∧
    (acting (.write 0x48 8 5)).port = ⟨false, .write 0x48 8 5⟩ :: [] ∧
    (acting (.read 0 8)).port = ⟨false, .read 0 8⟩ :: [] := ⟨rfl, by decide, by decide, rfl, rfl⟩

/-- A command that changes nothing, and one that writes `ACC`. -/
theorem witness_CommandsLeaveOtherRegistersAlone : Instr.nop ≠ .srst ∧
    exec .nop State.reset = .next (finished State.reset) ∧ Instr.hpReset 1 ≠ .srst ∧
    ∃ t, exec (.hpReset 1) State.reset = .next t := ⟨nofun, rfl, nofun, _, rfl⟩

theorem witness_CommandsLeaveHostBuffersAlone : Instr.hstage 1 1 2 ≠ .srst ∧ ∃ t, exec (.hstage 1 1 2) fed = .next t :=
  ⟨nofun, _, rfl⟩

/-- The state after reset meets `InvMemory`, and a host write to BUFA is a step from it. -/
theorem witness_StepKeepsInvMemory : InvMemory (acting (.write 0x200 8 5)) ∧
    ∃ t, step (acting (.write 0x200 8 5)) = .next t :=
  ⟨⟨List.Pairwise.nil, nofun, Nat.zero_le _⟩, _, rfl⟩

/-- A running `NOP` meets `InvControl`, and its completion is a step. -/
theorem witness_StepKeepsInvControl : InvControl { State.reset with running := some .nop } ∧
    ∃ t, step { State.reset with running := some .nop } = .next t := by
  refine ⟨⟨rfl, fun i h => ?_⟩, _, rfl⟩
  cases h
  exact ⟨rfl, rfl⟩

theorem witness_StepKeepsInvWords : InvWords (acting (.write 0x200 8 5)) ∧
    ∃ t, step (acting (.write 0x200 8 5)) = .next t := ⟨fun _ => .inr fun _ _ => rfl, _, rfl⟩

end Sys2Proof.Tests
end

section
/-! What a procedure can do to the storage: every change goes through `memWrite`, so a procedure is described by the
ranges it may write and by where it can stop (R27, R39). -/

namespace Sys2Proof.Proofs

open Sys2Proof.Machine Sys2Proof.Claims

/-! ### Writes in allowed ranges -/

/-- One write whose base and length are allowed. -/
def WriteIn (allowed : Nat → Nat → Prop) (m m' : Memory) : Prop :=
  ∃ base bs, allowed base bs.length ∧ m' = memWrite m base bs

/-- Any number of writes whose bases and lengths are allowed. -/
def Writes (allowed : Nat → Nat → Prop) : Memory → Memory → Prop := Relation.ReflTransGen (WriteIn allowed)

section
variable {A B : Nat → Nat → Prop} {m m' m'' : Memory}

theorem Writes.refl (m : Memory) : Writes A m m := Relation.ReflTransGen.refl

theorem Writes.trans (h : Writes A m m') (h' : Writes A m' m'') : Writes A m m'' := Relation.ReflTransGen.trans h h'

theorem Writes.single {base : Nat} {bs : List Byte} (h : A base bs.length) : Writes A m (memWrite m base bs) :=
  Relation.ReflTransGen.single ⟨base, bs, h, rfl⟩

theorem Writes.mono (hAB : ∀ base n, A base n → B base n) (h : Writes A m m') : Writes B m m' :=
  Relation.ReflTransGen.mono (r := WriteIn A) (p := WriteIn B)
    (fun _ _ ⟨base, bs, ha, he⟩ => ⟨base, bs, hAB _ _ ha, he⟩) _ _ h

/-- What every allowed write keeps, any number of them keeps. -/
theorem Writes.preserves {P : Memory → Prop} (hP : ∀ m base bs, A base bs.length → P m → P (memWrite m base bs))
    (h : Writes A m m') (hm : P m) : P m' := by
  induction h with
  | refl => exact hm
  | tail _ hw ih =>
    obtain ⟨base, bs, ha, rfl⟩ := hw
    exact hP _ _ _ ha ih

/-- Writes never take a value away (R39). -/
theorem Writes.isSome {a : Nat} (h : Writes A m m') (ha : (memGet? m a).isSome = true) :
    (memGet? m' a).isSome = true :=
  h.preserves (P := fun m => (memGet? m a).isSome = true) (fun _ _ _ _ => memGet?_memWrite_isSome) ha

theorem Writes.eq_none {a : Nat} (h : Writes A m m') (ha : memGet? m' a = none) : memGet? m a = none := by
  by_contra hn
  have := h.isSome (Option.isSome_iff_ne_none.2 hn)
  simp [ha] at this

theorem Writes.held {a n : Nat} (h : Writes A m m') (hm : Held m a n) : Held m' a n :=
  fun k hk => h.isSome (hm k hk)

/-- A byte outside every allowed range keeps what it held. -/
theorem Writes.memGet?_eq {a : Nat} (ha : ∀ base n, A base n → a < base ∨ base + n ≤ a) (h : Writes A m m') :
    memGet? m' a = memGet? m a :=
  h.preserves (P := fun x => memGet? x a = memGet? m a)
    (fun _ _ _ hb hx => (memGet?_memWrite_outside (ha _ _ hb)).trans hx) rfl

end

/-! ### Footprints -/

/-- A procedure on the storage `m`: if it answers, its storage comes from `m` by allowed writes; if it stops, it is at a
byte of `m` that holds no value (R27). -/
def Footprint {α : Type} (A : Nat → Nat → Prop) (m : Memory) (mem : α → Memory) : Except Fault α → Prop
  | .ok x => Writes A m (mem x)
  | .error f => ∃ a, f = .noValue a ∧ memGet? m a = none

section
variable {α β : Type} {A B : Nat → Nat → Prop} {m : Memory} {mem : α → Memory} {mem' : β → Memory}

theorem Footprint.ok {x : α} (h : Writes A m (mem x)) : Footprint A m mem (.ok x) := h

theorem Footprint.mono (hAB : ∀ base n, A base n → B base n) {r : Except Fault α} (h : Footprint A m mem r) :
    Footprint B m mem r := by
  cases r with
  | ok x => exact Writes.mono hAB h
  | error f => exact h

/-- One procedure after another. -/
theorem Footprint.bind {r : Except Fault α} {f : α → Except Fault β} (h : Footprint A m mem r)
    (hf : ∀ x, r = .ok x → Footprint A (mem x) mem' (f x)) : Footprint A m mem' (r.bind f) := by
  cases r with
  | error e => exact h
  | ok x =>
    have hw : Writes A m (mem x) := h
    have hx := hf x rfl
    change Footprint A m mem' (f x)
    cases hr : f x with
    | ok y =>
      rw [hr] at hx
      exact hw.trans hx
    | error e =>
      rw [hr] at hx
      obtain ⟨a, he, ha⟩ := hx
      exact ⟨a, he, hw.eq_none ha⟩

/-- Writes made before a procedure. -/
theorem Footprint.after {m' : Memory} {r : Except Fault α} (hw : Writes A m m') (h : Footprint A m' mem r) :
    Footprint A m mem r := by
  cases r with
  | ok x => exact hw.trans h
  | error f =>
    obtain ⟨a, he, ha⟩ := h
    exact ⟨a, he, hw.eq_none ha⟩

end

/-! ### Reads write nothing -/

section
variable {A : Nat → Nat → Prop}

theorem readBytes_footprint (m : Memory) (a n : Nat) : Footprint A m (fun _ => m) (readBytes m a n) := by
  cases h : readBytes m a n with
  | ok bs => exact Writes.refl m
  | error f =>
    obtain ⟨k, -, rfl, hn⟩ := readBytes_eq_error h
    exact ⟨_, rfl, hn⟩

theorem readWords_footprint (m : Memory) (a n : Nat) : Footprint A m (fun _ => m) (readWords m a n) := by
  cases h : readWords m a n with
  | ok ws => exact Writes.refl m
  | error f =>
    obtain ⟨k, -, rfl, hn⟩ := readWords_eq_error h
    exact ⟨_, rfl, hn⟩

theorem readBlock_footprint (m : Memory) (C row col : Nat) : Footprint A m (fun _ => m) (readBlock m C row col) :=
  readWords_footprint _ _ _

theorem readSafeBlock_footprint (m : Memory) (n : Nat) : Footprint A m (fun _ => m) (readSafeBlock m n) :=
  readWords_footprint _ _ _

theorem readBuf_footprint (m : Memory) (b : Buf) : Footprint A m (fun _ => m) (readBuf m b) :=
  readBytes_footprint _ _ _

end

/-! ### The ranges commands write (R23 to R26) -/

/-- One of the first `n` blocks of the Memory Matrix (R26, R47). -/
def MatrixBlock (n base len : Nat) : Prop := len = 96 ∧ ∃ k, k < n ∧ base = mBase + 96 * k

/-- What a derivation writes: `b` safe blocks of padded input and the first `n` blocks of M (R100). -/
def DeriveRange (b n base len : Nat) : Prop := (base = padBase ∧ len = 64 * b) ∨ MatrixBlock n base len

/-- Every range a command other than `SRST` can write: BUFA, BUFB, and what fits OUT, PADBUF and M. -/
def CommandRange (p : Params) (base len : Nat) : Prop :=
  ((base = bufABase ∨ base = bufBBase) ∧ len = 32) ∨ (base = outBase ∧ len ≤ p.outMax) ∨
    (base = padBase ∧ len ≤ p.padMax) ∨ MatrixBlock p.mBlocks base len

theorem MatrixBlock.mono {n n' base len : Nat} (h : n ≤ n') (hb : MatrixBlock n base len) :
    MatrixBlock n' base len := by
  obtain ⟨hl, k, hk, hb⟩ := hb
  exact ⟨hl, k, by omega, hb⟩

theorem MatrixBlock.commandRange {p : Params} {n base len : Nat} (h : n ≤ p.mBlocks) (hb : MatrixBlock n base len) :
    CommandRange p base len := .inr (.inr (.inr (hb.mono h)))

theorem DeriveRange.commandRange {p : Params} {b n base len : Nat} (hb : 64 * b ≤ p.padMax) (hn : n ≤ p.mBlocks)
    (h : DeriveRange b n base len) : CommandRange p base len := by
  rcases h with ⟨h1, h2⟩ | h
  · exact .inr (.inr (.inl ⟨h1, h2.trans_le hb⟩))
  · exact h.commandRange hn

/-- Blocks of different rows and columns are numbered row by row (R47). -/
theorem blockIndex_lt {R C row col : Nat} (hr : row < R) (hc : col < C) : row * C + col < R * C := by
  have := Nat.mul_le_mul_right C (show row + 1 ≤ R from hr)
  rw [Nat.add_mul, Nat.one_mul] at this
  omega

theorem length_blockBytes (blk : Vector Word 12) : (le64s blk.toList).length = 96 := by simp

theorem writeBlock_writes {R C row col : Nat} (m : Memory) (blk : Vector Word 12) (hr : row < R) (hc : col < C) :
    Writes (MatrixBlock (R * C)) m (writeBlock m C row col blk) :=
  .single ⟨length_blockBytes blk, _, blockIndex_lt hr hc, rfl⟩

theorem writeBuf_writes {p : Params} (m : Memory) {b : Buf} (hb : b ≠ .hdr) {bs : List Byte} (hl : bs.length = 32) :
    Writes (CommandRange p) m (writeBuf m b bs) := by
  refine .single (.inl ⟨?_, hl⟩)
  cases b with
  | hdr => exact absurd rfl hb
  | bufA => exact .inl rfl
  | bufB => exact .inr rfl

end Sys2Proof.Proofs
end

section
/-! The procedures of the Memory-Hard Core and of the chain as sequences of reads and writes, and the range each of them
writes (R90 to R100, R116, R118). -/

namespace Sys2Proof.Proofs

open Sys2Proof.Machine Sys2Proof.Claims

/-! ### Each procedure as a sequence: one equation per definition -/

theorem bind_eq_ok {α β : Type} {r : Except Fault α} {f : α → Except Fault β} {y : β} :
    r.bind f = .ok y ↔ ∃ x, r = .ok x ∧ f x = .ok y := by
  cases r with
  | error e => exact ⟨nofun, fun ⟨_, h, _⟩ => nomatch h⟩
  | ok x => exact ⟨fun h => ⟨x, rfl, h⟩, fun ⟨_, h, h'⟩ => by cases h; exact h'⟩

@[simp] theorem ok_bind {α β : Type} (x : α) (f : α → Except Fault β) : (Except.ok x).bind f = f x := rfl

@[simp] theorem error_bind {α β : Type} (e : Fault) (f : α → Except Fault β) :
    (Except.error e : Except Fault α).bind f = .error e := rfl

theorem forCols_succ (f : Nat → Work → Except Fault Work) (n col : Nat) (w : Work) :
    forCols f (n + 1) col w = (f col w).bind (forCols f n (col + 1)) := by
  rw [forCols]; cases f col w <;> rfl

theorem duplexRow1Step_eq (rin rout C col : Nat) (w : Work) :
    duplexRow1Step rin rout C col w = (readBlock w.mem C rin col).bind fun x =>
      .ok { S := reducedTransform (xorInto x w.S)
            mem := writeBlock w.mem C rout (C - 1 - col) (xorBlock x (rate (reducedTransform (xorInto x w.S)))) } := by
  unfold duplexRow1Step
  generalize readBlock = read
  cases read w.mem C rin col <;> rfl

/-- What a column of `DuplexRowSetup` leaves, once its two blocks are read (R93). -/
def duplexRowSetupWork (p : Params) (rowa rnew C col : Nat) (w : Work) (x y : Vector Word 12) : Work :=
  let S := reducedTransform (xorInto (addBlock x y) w.S)
  { S := S
    mem := writeBlock (writeBlock w.mem C rnew (newRowCol p C col) (xorBlock x (rate S))) C rowa col
      (xorBlock y (rotatedRate S)) }

theorem duplexRowSetupStep_eq (p : Params) (prev rowa rnew C col : Nat) (w : Work) :
    duplexRowSetupStep p prev rowa rnew C col w = (readBlock w.mem C prev col).bind fun x =>
      (readBlock w.mem C rowa col).bind fun y => .ok (duplexRowSetupWork p rowa rnew C col w x y) := by
  unfold duplexRowSetupStep duplexRowSetupWork
  generalize readBlock = read
  cases read w.mem C prev col with
  | error f => rfl
  | ok x => cases read w.mem C rowa col <;> rfl

/-- The storage after the first of the two updates of a column of `DuplexRow` (R94). -/
def duplexRowMem (row C col : Nat) (w : Work) (x y z : Vector Word 12) : Memory :=
  writeBlock w.mem C row col (xorBlock z (rate (reducedTransform (xorInto (addBlock x y) w.S))))

theorem duplexRowStep_eq (prev rowa row C col : Nat) (w : Work) :
    duplexRowStep prev rowa row C col w = (readBlock w.mem C prev col).bind fun x =>
      (readBlock w.mem C rowa col).bind fun y => (readBlock w.mem C row col).bind fun z =>
        (readBlock (duplexRowMem row C col w x y z) C rowa col).bind fun y' => .ok
          { S := reducedTransform (xorInto (addBlock x y) w.S)
            mem := writeBlock (duplexRowMem row C col w x y z) C rowa col
              (xorBlock y' (rotatedRate (reducedTransform (xorInto (addBlock x y) w.S)))) } := by
  unfold duplexRowStep duplexRowMem
  generalize readBlock = read
  cases read w.mem C prev col with
  | error f => rfl
  | ok x =>
    cases read w.mem C rowa col with
    | error f => rfl
    | ok y =>
      cases read w.mem C row col with
      | error f => rfl
      | ok z =>
        simp only [ok_bind]
        split <;> simp only [*, ok_bind, error_bind]

theorem setupLoop_succ (p : Params) (C n : Nat) (c : Sched) (w : Work) :
    setupLoop p C (n + 1) c w = (duplexRowSetup p c.prev c.rowa c.row C w).bind (setupLoop p C n (schedNext c)) := by
  rw [setupLoop]; cases duplexRowSetup p c.prev c.rowa c.row C w <;> rfl

theorem setupProc_eq (p : Params) (R C : Nat) (w : Work) :
    setupProc p R C w = (squeezeRow0 p 0 C w).bind fun w1 => (duplexRow1 0 1 C w1).bind fun w2 =>
      setupLoop p C (R - 2) schedFirst w2 := by
  cases h : squeezeRow0 p 0 C w with
  | error f => simp only [setupProc, h, error_bind]
  | ok w1 => cases h' : duplexRow1 0 1 C w1 <;> simp only [setupProc, h, h', ok_bind, error_bind]

/-- The row* of a visit of Wandering: `S[0] umod R` (R98). -/
def visitRowa (R : Nat) (x : Work × Tour) : Nat := x.1.S[0].toNat % R

/-- Where a visit of Wandering leaves the loop variables (R98). -/
def visitTour (R : Nat) (x : Work × Tour) : Tour :=
  { x.2 with rowa := visitRowa R x, prev := x.2.row, row := (((x.2.row : Int) + x.2.stride) % (R : Int)).toNat }

theorem wanderVisit_eq (R C : Nat) (x : Work × Tour) :
    wanderVisit R C x =
      (duplexRow x.2.prev (visitRowa R x) x.2.row C x.1).bind fun w => .ok (w, visitTour R x) := by
  cases h : duplexRow x.2.prev (visitRowa R x) x.2.row C x.1 <;>
    simp only [visitRowa] at h <;> simp only [wanderVisit, visitTour, visitRowa, h, ok_bind, error_bind]

theorem wanderPass_succ (R C fuel : Nat) (x : Work × Tour) :
    wanderPass R C (fuel + 1) x =
      (wanderVisit R C x).bind fun y => if y.2.row = 0 then .ok y else wanderPass R C fuel y := by
  rw [wanderPass]; cases wanderVisit R C x <;> rfl

theorem wanderPasses_succ (R C n tau : Nat) (x : Work × Tour) :
    wanderPasses R C (n + 1) tau x =
      (wanderPass R C R (x.1, { x.2 with tau := tau, stride := wanderStride R tau })).bind
        (wanderPasses R C n (tau + 1)) := by
  rw [wanderPasses]; cases wanderPass R C R (x.1, { x.2 with tau := tau, stride := wanderStride R tau }) <;> rfl

theorem finalProc_eq (outLen rowa C : Nat) (w : Work) :
    finalProc outLen rowa C w = (readBlock w.mem C rowa 0).bind fun blk =>
      .ok ((squeeze outLen (absorbFull blk w.S)).1, { w with S := (squeeze outLen (absorbFull blk w.S)).2 }) := by
  unfold finalProc
  generalize readBlock = read
  cases read w.mem C rowa 0 <;> rfl

theorem absorbBlocks_succ (n blk : Nat) (w : Work) :
    absorbBlocks (n + 1) blk w = (readSafeBlock w.mem blk).bind fun b =>
      absorbBlocks n (blk + 1) { w with S := absorbSafe b w.S } := by
  conv_lhs => unfold absorbBlocks
  generalize readSafeBlock = read
  cases read w.mem blk <;> rfl

theorem deriveProc_eq (p : Params) (outLen : Word) (pwd salt : List Byte) (t R C : Word) (m : Memory) :
    deriveProc p outLen pwd salt t R C m =
      (absorbBlocks (padBlocks pwd.length salt.length) 0
          { S := initState p, mem := padProc outLen pwd salt t R C m }).bind fun w1 =>
        (setupProc p R.toNat C.toNat w1).bind fun x2 =>
          (wanderProc t.toNat R.toNat C.toNat x2.2.prev x2.1).bind fun x3 =>
            (finalProc outLen.toNat x3.2.rowa C.toNat x3.1).bind fun x4 =>
              .ok { out := x4.1, work := x4.2, nBlk := padBlocks pwd.length salt.length, sched := x2.2,
                    tour := x3.2 } := by
  cases h1 : absorbBlocks (padBlocks pwd.length salt.length) 0
      { S := initState p, mem := padProc outLen pwd salt t R C m } with
  | error f => simp only [deriveProc, h1, error_bind]
  | ok w1 =>
    cases h2 : setupProc p R.toNat C.toNat w1 with
    | error f => simp only [deriveProc, h1, h2, ok_bind, error_bind]
    | ok x2 =>
      cases h3 : wanderProc t.toNat R.toNat C.toNat x2.2.prev x2.1 with
      | error f => simp only [deriveProc, h1, h2, h3, ok_bind, error_bind]
      | ok x3 =>
        cases h4 : finalProc outLen.toNat x3.2.rowa C.toNat x3.1 <;>
          simp only [deriveProc, h1, h2, h3, h4, ok_bind, error_bind]

theorem hashStage_eq (p : Params) (u : Fin 5) (src dst : Buf) (m : Memory) :
    hashStage p u src dst m = (readBuf m src).bind fun bs => .ok (writeBuf m dst (hashOf p u bs)) := by
  rw [hashStage]; cases readBuf m src <;> rfl

theorem hashStages_cons (p : Params) (u : Fin 5) (src dst : Buf) (rest : List (Fin 5 × Buf × Buf)) (m : Memory) :
    hashStages p ((u, src, dst) :: rest) m = (hashStage p u src dst m).bind (hashStages p rest) := by
  rw [hashStages]; cases hashStage p u src dst m <;> rfl

theorem deriveStage_eq (p : Params) (m : Memory) :
    deriveStage p m = (readBuf m .bufA).bind fun a => (deriveProc p 32 a a 1 4 4 m).bind fun d =>
      .ok { d with work := { d.work with mem := writeBuf d.work.mem .bufB d.out } } := by
  cases h : readBuf m .bufA with
  | error f => simp only [deriveStage, h, error_bind]
  | ok a => cases h' : deriveProc p 32 a a 1 4 4 m <;> simp only [deriveStage, h, h', ok_bind, error_bind]

/-! ### Row operations write blocks of their rows (R91 to R94) -/

/-- A loop over columns each of which writes only in the allowed ranges. -/
theorem forCols_footprint {A : Nat → Nat → Prop} {f : Nat → Work → Except Fault Work} {n col : Nat} {w : Work}
    (hf : ∀ c v, c < col + n → Footprint A v.mem Work.mem (f c v)) :
    Footprint A w.mem Work.mem (forCols f n col w) := by
  induction n generalizing col w with
  | zero => exact .ok (Writes.refl _)
  | succ n ih =>
    rw [forCols_succ]
    exact (hf col w (by omega)).bind fun v _ => ih fun c v hc => hf c v (by omega)

theorem newRowCol_lt {p : Params} {C col : Nat} (h : col < C) : newRowCol p C col < C := by
  unfold newRowCol; split <;> omega

theorem squeezeRow0_footprint {p : Params} {R rout C : Nat} (hr : rout < R) (w : Work) :
    Footprint (MatrixBlock (R * C)) w.mem Work.mem (squeezeRow0 p rout C w) :=
  forCols_footprint fun _ _ _ => .ok (writeBlock_writes _ _ hr (by omega))

theorem duplexRow1_footprint {R rin rout C : Nat} (hr : rout < R) (w : Work) :
    Footprint (MatrixBlock (R * C)) w.mem Work.mem (duplexRow1 rin rout C w) :=
  forCols_footprint fun c v hc => by
    rw [duplexRow1Step_eq]
    exact (readBlock_footprint _ _ _ _).bind fun x _ => .ok (writeBlock_writes _ _ hr (by omega))

theorem duplexRowSetup_footprint {p : Params} {R prev rowa rnew C : Nat} (ha : rowa < R) (hn : rnew < R) (w : Work) :
    Footprint (MatrixBlock (R * C)) w.mem Work.mem (duplexRowSetup p prev rowa rnew C w) :=
  forCols_footprint fun c v hc => by
    rw [duplexRowSetupStep_eq]
    exact (readBlock_footprint _ _ _ _).bind fun x _ => (readBlock_footprint _ _ _ _).bind fun y _ =>
      .ok ((writeBlock_writes _ _ hn (newRowCol_lt (by omega))).trans (writeBlock_writes _ _ ha (by omega)))

theorem duplexRow_footprint {R prev rowa row C : Nat} (ha : rowa < R) (hr : row < R) (w : Work) :
    Footprint (MatrixBlock (R * C)) w.mem Work.mem (duplexRow prev rowa row C w) :=
  forCols_footprint fun c v hc => by
    rw [duplexRowStep_eq]
    exact (readBlock_footprint _ _ _ _).bind fun x _ => (readBlock_footprint _ _ _ _).bind fun y _ =>
      (readBlock_footprint _ _ _ _).bind fun z _ => .after (writeBlock_writes _ _ hr (by omega)) <|
        (readBlock_footprint _ _ _ _).bind fun y' _ => .ok (writeBlock_writes _ _ ha (by omega))

/-! ### Wandering stays in the matrix (R98) -/

theorem visitTour_row_lt {R : Nat} (hR : 0 < R) (x : Work × Tour) : (visitTour R x).row < R := by
  have h0 : (0 : Int) < R := by omega
  have := Int.emod_lt_of_pos ((x.2.row : Int) + x.2.stride) h0
  have := Int.emod_nonneg ((x.2.row : Int) + x.2.stride) (Int.ne_of_gt h0)
  simp only [visitTour]
  omega

theorem wanderVisit_row_lt {R C : Nat} (hR : 0 < R) {x y : Work × Tour} (h : wanderVisit R C x = .ok y) :
    y.2.row < R := by
  rw [wanderVisit_eq, bind_eq_ok] at h
  obtain ⟨w, -, hy⟩ := h
  cases hy
  exact visitTour_row_lt hR x

theorem wanderVisit_footprint {R C : Nat} {x : Work × Tour} (hx : x.2.row < R) :
    Footprint (MatrixBlock (R * C)) x.1.mem (fun y => y.1.mem) (wanderVisit R C x) := by
  rw [wanderVisit_eq]
  exact (duplexRow_footprint (Nat.mod_lt _ (by omega)) hx _).bind fun w _ => .ok (Writes.refl _)

theorem wanderPass_row_lt {R C fuel : Nat} {x y : Work × Tour} (hx : x.2.row < R)
    (h : wanderPass R C fuel x = .ok y) : y.2.row < R :=
  wanderPass_inv (fun x => x.2.row < R) h hx fun _ _ hv _ => wanderVisit_row_lt (by omega) hv

theorem wanderPass_footprint {R C fuel : Nat} {x : Work × Tour} (hx : x.2.row < R) :
    Footprint (MatrixBlock (R * C)) x.1.mem (fun y => y.1.mem) (wanderPass R C fuel x) := by
  induction fuel generalizing x with
  | zero => exact .ok (Writes.refl _)
  | succ fuel ih =>
    rw [wanderPass_succ]
    refine (wanderVisit_footprint hx).bind fun y hy => ?_
    split
    · exact .ok (Writes.refl _)
    · exact ih (wanderVisit_row_lt (by omega) hy)

theorem wanderPasses_footprint {R C n tau : Nat} {x : Work × Tour} (hx : x.2.row < R) :
    Footprint (MatrixBlock (R * C)) x.1.mem (fun y => y.1.mem) (wanderPasses R C n tau x) := by
  induction n generalizing tau x with
  | zero => exact .ok (Writes.refl _)
  | succ n ih =>
    rw [wanderPasses_succ]
    have hx' : (x.1, { x.2 with tau := tau, stride := wanderStride R tau }).2.row < R := hx
    exact (wanderPass_footprint hx').bind fun y hy => ih (wanderPass_row_lt hx' hy)

theorem wanderProc_footprint {T R C prev : Nat} (hR : 0 < R) (w : Work) :
    Footprint (MatrixBlock (R * C)) w.mem (fun y => y.1.mem) (wanderProc T R C prev w) :=
  wanderPasses_footprint (x := (w, { row := 0, prev := prev, rowa := 0, stride := 0, tau := 0 })) hR

/-! ### Absorption and finalization write nothing (R99, R100) -/

theorem absorbBlocks_footprint {A : Nat → Nat → Prop} (n blk : Nat) (w : Work) :
    Footprint A w.mem Work.mem (absorbBlocks n blk w) := by
  induction n generalizing blk w with
  | zero => exact .ok (Writes.refl _)
  | succ n ih =>
    rw [absorbBlocks_succ]
    exact (readSafeBlock_footprint _ _).bind fun b _ => ih (blk + 1) { w with S := absorbSafe b w.S }

theorem finalProc_footprint {A : Nat → Nat → Prop} (outLen rowa C : Nat) (w : Work) :
    Footprint A w.mem (fun y => y.2.mem) (finalProc outLen rowa C w) := by
  rw [finalProc_eq]
  exact (readBlock_footprint _ _ _ _).bind fun _ _ => .ok (Writes.refl _)

theorem finalProc_length {outLen rowa C : Nat} {w : Work} {x : List Byte × Work}
    (h : finalProc outLen rowa C w = .ok x) : x.1.length = outLen := by
  rw [finalProc_eq, bind_eq_ok] at h
  obtain ⟨blk, -, hx⟩ := h
  cases hx
  exact length_squeeze _ _

end Sys2Proof.Proofs
end

section
/-! The visitation schedule of Setup in closed form (R96): within a window the visited rows `(ROW - WINDOW) * STEP mod
WINDOW` are all different, since `STEP` is odd and `WINDOW` a power of two. -/

namespace Sys2Proof.Proofs

open Sys2Proof.Machine Sys2Proof.Claims

/-- Where the schedule stands when the loop of Setup builds row `c.row`. -/
structure OnSchedule (c : Sched) : Prop where
  window_pow : ∃ k, c.window = 2 ^ (k + 1)
  window_le : c.window ≤ c.row
  row_lt : c.row < 2 * c.window
  prev_succ : c.prev + 1 = c.row
  stride_odd : c.stride % 2 = 1
  gap_odd : c.gap % 2 = 1
  rowa_eq : (c.rowa : Int) = ((c.row : Int) - c.window) * c.stride % c.window

/-- The row* of the next position (R96). -/
def nextRowa (c : Sched) : Nat := (((c.rowa : Int) + c.stride) % (c.window : Int)).toNat

theorem schedNext_of_zero {c : Sched} (h : nextRowa c = 0) :
    schedNext c = { row := c.row + 1, prev := c.row, rowa := 0, stride := (c.window : Int) + c.gap,
                    window := 2 * c.window, gap := -c.gap } := by
  unfold nextRowa at h
  simp only [schedNext, h, if_true]

theorem schedNext_of_ne_zero {c : Sched} (h : nextRowa c ≠ 0) :
    schedNext c = { c with row := c.row + 1, prev := c.row, rowa := nextRowa c } := by
  unfold nextRowa at h ⊢
  simp only [schedNext, h, if_false]

@[simp] theorem schedNext_row (c : Sched) : (schedNext c).row = c.row + 1 := by
  by_cases h : nextRowa c = 0
  · rw [schedNext_of_zero h]
  · rw [schedNext_of_ne_zero h]

namespace OnSchedule

variable {c : Sched}

theorem window_pos (h : OnSchedule c) : 0 < c.window := by
  obtain ⟨k, hk⟩ := h.window_pow
  rw [hk]
  exact Nat.two_pow_pos _

theorem window_even (h : OnSchedule c) : c.window % 2 = 0 := by
  obtain ⟨k, hk⟩ := h.window_pow
  omega

/-- The rows an iteration names are rows below the one it builds. -/
theorem rowa_lt (h : OnSchedule c) : c.rowa < c.window := by
  have hw : (0 : Int) < c.window := by have := h.window_pos; omega
  have := Int.emod_lt_of_pos (((c.row : Int) - c.window) * c.stride) hw
  rw [← h.rowa_eq] at this
  omega

theorem rowa_lt_row (h : OnSchedule c) : c.rowa < c.row := h.rowa_lt.trans_le h.window_le

theorem nextRowa_eq (h : OnSchedule c) :
    (nextRowa c : Int) = ((c.row : Int) + 1 - c.window) * c.stride % c.window := by
  have hw : (c.window : Int) ≠ 0 := by have := h.window_pos; omega
  rw [nextRowa, Int.toNat_of_nonneg (Int.emod_nonneg _ hw), h.rowa_eq, Int.emod_add_emod]
  congr 1
  ring

/-- `STEP` and `WINDOW` have no common factor: `STEP` is odd, `WINDOW` a power of two. -/
theorem window_dvd (h : OnSchedule c) {z : Int} (hz : (c.window : Int) ∣ z * c.stride) : (c.window : Int) ∣ z := by
  obtain ⟨k, hk⟩ := h.window_pow
  have hodd : Odd c.stride := Int.odd_iff.2 h.stride_odd
  have hc : IsCoprime (c.window : Int) c.stride := by
    rw [hk, Nat.cast_pow]
    exact IsCoprime.pow_left (Int.isCoprime_two_left.2 hodd)
  exact hc.dvd_of_dvd_mul_right hz

/-- Row* comes back to 0 exactly when the window is used up. -/
theorem nextRowa_eq_zero (h : OnSchedule c) : nextRowa c = 0 ↔ c.row + 1 = 2 * c.window := by
  have hle := h.window_le
  have hlt := h.row_lt
  constructor
  · intro h0
    have hd : (c.window : Int) ∣ (c.row : Int) + 1 - c.window :=
      h.window_dvd (Int.dvd_of_emod_eq_zero (by rw [← h.nextRowa_eq, h0]; rfl))
    have := Int.le_of_dvd (by omega) hd
    omega
  · intro hr
    have : (nextRowa c : Int) = 0 := by
      rw [h.nextRowa_eq, show (c.row : Int) + 1 - c.window = c.window by omega]
      exact Int.mul_emod_right _ _
    omega

theorem next (h : OnSchedule c) : OnSchedule (schedNext c) := by
  obtain ⟨k, hk⟩ := h.window_pow
  have hlt := h.row_lt
  have hpos := h.window_pos
  by_cases h0 : nextRowa c = 0
  · have hr := h.nextRowa_eq_zero.1 h0
    rw [schedNext_of_zero h0]
    refine ⟨⟨k + 1, ?_⟩, ?_, ?_, rfl, ?_, ?_, ?_⟩
    · change 2 * c.window = _
      rw [hk, pow_succ 2 (k + 1)]
      omega
    · change 2 * c.window ≤ c.row + 1
      omega
    · change c.row + 1 < 2 * (2 * c.window)
      omega
    · change ((c.window : Int) + c.gap) % 2 = 1
      have := h.window_even
      have := h.gap_odd
      omega
    · change (-c.gap) % 2 = 1
      have := h.gap_odd
      omega
    · change ((0 : Nat) : Int) = (((c.row + 1 : Nat) : Int) - (2 * c.window : Nat)) * _ % _
      rw [show ((c.row + 1 : Nat) : Int) - (2 * c.window : Nat) = 0 by omega]
      simp
  · have hr := mt h.nextRowa_eq_zero.2 h0
    rw [schedNext_of_ne_zero h0]
    refine ⟨⟨k, hk⟩, h.window_le.trans (Nat.le_succ _), ?_, rfl, h.stride_odd, h.gap_odd, ?_⟩
    · change c.row + 1 < 2 * c.window
      omega
    · change (nextRowa c : Int) = (((c.row + 1 : Nat) : Int) - c.window) * c.stride % c.window
      rw [h.nextRowa_eq]
      push_cast
      rfl

/-- At a power of two the schedule begins a new window at row* 0. -/
theorem of_row_eq_pow (h : OnSchedule c) {j : Nat} (hj : c.row = 2 ^ j) : c.window = c.row ∧ c.rowa = 0 := by
  obtain ⟨k, hk⟩ := h.window_pow
  have h1 : 2 ^ (k + 1) ≤ 2 ^ j := by rw [← hk, ← hj]; exact h.window_le
  have h2 : 2 ^ j < 2 ^ (k + 2) := by
    have := h.row_lt
    rw [hk, hj, ← pow_succ'] at this
    exact this
  have h3 : k + 1 = j := by
    have := (Nat.pow_le_pow_iff_right (by decide : 1 < 2)).1 h1
    have := (Nat.pow_lt_pow_iff_right (by decide : 1 < 2)).1 h2
    omega
  have hw : c.window = c.row := by rw [hk, hj, h3]
  refine ⟨hw, ?_⟩
  have := h.rowa_eq
  rw [hw, sub_self, zero_mul, Int.zero_emod] at this
  omega

end OnSchedule

theorem onSchedule_first : OnSchedule schedFirst :=
  ⟨⟨0, rfl⟩, by decide, by decide, rfl, by decide, by decide, by decide⟩

/-- The schedule after `n` rows of the loop. -/
def schedAfter (n : Nat) : Sched := schedNext^[n] schedFirst

theorem schedAfter_succ (n : Nat) : schedAfter (n + 1) = schedNext (schedAfter n) :=
  Function.iterate_succ_apply' _ _ _

theorem onSchedule_schedAfter (n : Nat) : OnSchedule (schedAfter n) := by
  induction n with
  | zero => exact onSchedule_first
  | succ n ih => rw [schedAfter_succ]; exact ih.next

theorem schedAfter_row (n : Nat) : (schedAfter n).row = n + 2 := by
  induction n with
  | zero => rfl
  | succ n ih => rw [schedAfter_succ, schedNext_row, ih]

/-- The machine's schedule is the one the claims write out (R96). -/
theorem schedule_eq_schedAfter (n : Nat) :
    schedule n = { row := (schedAfter n).row, prev := (schedAfter n).prev, rowa := (schedAfter n).rowa,
                   stride := (schedAfter n).stride, window := (schedAfter n).window, gap := (schedAfter n).gap } := by
  induction n with
  | zero => rfl
  | succ n ih =>
    rw [schedule, ih, schedAfter_succ]
    by_cases h : nextRowa (schedAfter n) = 0
    · rw [schedNext_of_zero h]
      unfold nextRowa at h
      simp only [h, if_true]
    · rw [schedNext_of_ne_zero h]
      unfold nextRowa at h ⊢
      simp only [h, if_false]

/-- The loop of Setup ends at the schedule's position after its rows. -/
theorem setupLoop_sched {p : Params} {C n k : Nat} {w w' : Work} {c : Sched}
    (h : setupLoop p C n (schedAfter k) w = .ok (w', c)) : c = schedAfter (k + n) := by
  induction n generalizing k w with
  | zero => cases h; rfl
  | succ n ih =>
    rw [setupLoop_succ, bind_eq_ok] at h
    obtain ⟨v, -, hv⟩ := h
    rw [← schedAfter_succ] at hv
    rw [ih hv]
    congr 1
    omega

/-! ### Setup stays in the matrix (R96) -/

theorem setupLoop_footprint {p : Params} {R C n : Nat} {c : Sched} (hc : OnSchedule c) (hn : c.row + n ≤ R) (w : Work) :
    Footprint (MatrixBlock (R * C)) w.mem (fun x => x.1.mem) (setupLoop p C n c w) := by
  induction n generalizing c w with
  | zero => exact .ok (Writes.refl _)
  | succ n ih =>
    rw [setupLoop_succ]
    have ha := hc.rowa_lt_row
    exact (duplexRowSetup_footprint (by omega) (by omega) w).bind fun v _ =>
      ih hc.next (by rw [schedNext_row]; omega) v

theorem setupProc_footprint {p : Params} {R C : Nat} (hR : 2 ≤ R) (w : Work) :
    Footprint (MatrixBlock (R * C)) w.mem (fun x => x.1.mem) (setupProc p R C w) := by
  rw [setupProc_eq]
  exact (squeezeRow0_footprint (by omega) w).bind fun w1 _ => (duplexRow1_footprint (by omega) w1).bind fun w2 _ =>
    setupLoop_footprint onSchedule_first (by change 2 + (R - 2) ≤ R; omega) w2

/-! ### A whole derivation (R100) and the chain (R118) -/

theorem deriveProc_footprint {p : Params} {outLen : Word} {pwd salt : List Byte} {t R C : Word} (hR : 2 ≤ R.toNat)
    (m : Memory) :
    Footprint (DeriveRange (padBlocks pwd.length salt.length) (R.toNat * C.toNat)) m (fun d => d.work.mem)
      (deriveProc p outLen pwd salt t R C m) := by
  rw [deriveProc_eq]
  have hpad : Writes (DeriveRange (padBlocks pwd.length salt.length) (R.toNat * C.toNat)) m
      (padProc outLen pwd salt t R C m) := .single (.inl ⟨rfl, length_padInput _ _ _ _ _ _⟩)
  refine .after hpad ((absorbBlocks_footprint _ _ { S := initState p, mem := _ }).bind fun w1 _ => ?_)
  refine ((setupProc_footprint hR w1).mono fun _ _ => .inr).bind fun x2 _ => ?_
  refine ((wanderProc_footprint (by omega) x2.1).mono fun _ _ => .inr).bind fun x3 _ => ?_
  exact (finalProc_footprint _ _ _ _).bind fun x4 _ => .ok (Writes.refl _)

theorem deriveProc_out_length {p : Params} {outLen : Word} {pwd salt : List Byte} {t R C : Word} {m : Memory}
    {d : Derived} (h : deriveProc p outLen pwd salt t R C m = .ok d) : d.out.length = outLen.toNat := by
  simp only [deriveProc_eq, bind_eq_ok] at h
  obtain ⟨w1, -, x2, -, x3, -, x4, h4, hd⟩ := h
  cases hd
  exact finalProc_length h4

theorem length_hashOf (p : Params) (u : Fin 5) (m : List Byte) : (hashOf p u m).length = 32 := by
  simp [hashOf]

theorem hashStage_footprint (p : Params) (u : Fin 5) (src : Buf) {dst : Buf} (hd : dst ≠ .hdr) (m : Memory) :
    Footprint (CommandRange p) m (fun x => x) (hashStage p u src dst m) := by
  rw [hashStage_eq]
  exact (readBuf_footprint _ _).bind fun bs _ => .ok (writeBuf_writes _ hd (length_hashOf _ _ _))

theorem hashStages_footprint (p : Params) {l : List (Fin 5 × Buf × Buf)} (hl : ∀ x ∈ l, x.2.2 ≠ .hdr) (m : Memory) :
    Footprint (CommandRange p) m (fun x => x) (hashStages p l m) := by
  induction l generalizing m with
  | nil => exact .ok (Writes.refl _)
  | cons x l ih =>
    obtain ⟨u, src, dst⟩ := x
    rw [hashStages_cons]
    exact (hashStage_footprint p u src (hl _ List.mem_cons_self) m).bind fun m' _ =>
      ih (fun x hx => hl x (List.mem_cons_of_mem _ hx)) m'

theorem readBytes_length {m : Memory} {a n : Nat} {bs : List Byte} (h : readBytes m a n = .ok bs) : bs.length = n :=
  (readBytes_eq_ok.1 h).1

theorem sixteen_le_mBlocks (p : Params) : 16 ≤ p.mBlocks := Nat.le_add_left _ _

theorem padMax_ge (p : Params) : 128 ≤ p.padMax := by
  unfold Params.padMax
  omega

/-- Stage 4 derives from 32 bytes of password and of salt: 2 safe blocks, 16 blocks of M (R118). -/
theorem deriveStage_footprint (p : Params) (m : Memory) :
    Footprint (CommandRange p) m (fun d => d.work.mem) (deriveStage p m) := by
  rw [deriveStage_eq]
  refine (readBuf_footprint _ _).bind fun a ha => ?_
  have hl : a.length = 32 := readBytes_length ha
  have hd : Footprint (CommandRange p) m (fun d => d.work.mem) (deriveProc p 32 a a 1 4 4 m) :=
    (deriveProc_footprint (by decide) m).mono fun _ _ =>
      DeriveRange.commandRange (by rw [hl]; exact padMax_ge p) (sixteen_le_mBlocks p)
  exact hd.bind fun d hd => .ok (writeBuf_writes _ (by decide) (deriveProc_out_length hd))

end Sys2Proof.Proofs
end

section
/-! The plan of every command: its checks, then its effect as a sequence of reads and one update (R76 to R124). From
these equations: the ranges a command writes, and the fields of the state it can change. -/

namespace Sys2Proof.Proofs

open Sys2Proof.Machine Sys2Proof.Claims

/-! ### Checks (R101, R102, R103) -/

theorem checkGeom_passes {p : Params} {R C : Word} :
    firstFailing (checkGeom p R C) = none ↔ 0 < R.toInt ∧ 0 < C.toInt ∧ R.toNat * C.toNat ≤ p.mBlocks := by
  rw [firstFailing_eq_none]
  simp [checkGeom, positive, and_assoc]

theorem isPowerOfTwo_and_ne_one {n : Nat} : (isPowerOfTwo n = true ∧ n ≠ 1) ↔ ∃ k, 0 < k ∧ n = 2 ^ k := by
  simp only [isPowerOfTwo, decide_eq_true_eq]
  constructor
  · rintro ⟨h, h1⟩
    refine ⟨n.log2, Nat.pos_of_ne_zero fun h0 => h1 ?_, h.symm⟩
    rw [← h, h0, pow_zero]
  · rintro ⟨k, hk, rfl⟩
    refine ⟨by rw [Nat.log2_two_pow], ?_⟩
    have := Nat.pow_le_pow_right (by decide : 0 < 2) (show 1 ≤ k from hk)
    omega

theorem checkParams_passes {p : Params} {t R C : Word} :
    firstFailing (checkParams p t R C) = none ↔
      0 < t.toInt ∧ (0 < R.toInt ∧ 0 < C.toInt ∧ R.toNat * C.toNat ≤ p.mBlocks) ∧ ∃ k, 0 < k ∧ R.toNat = 2 ^ k := by
  rw [← isPowerOfTwo_and_ne_one]
  simp only [firstFailing_eq_none, checkParams, positive, List.mem_cons, List.not_mem_nil, or_false,
    forall_eq_or_imp, forall_eq, Bool.and_eq_true, decide_eq_true_eq]
  tauto

theorem checkPad_passes {p : Params} {s : State} :
    firstFailing (checkPad p s) = none ↔ s.pwdLen.toNat ≤ p.pwdMax ∧ s.saltLen.toNat ≤ p.saltMax ∧
      64 * padBlocks s.pwdLen.toNat s.saltLen.toNat ≤ p.padMax := by
  rw [firstFailing_eq_none]
  simp [checkPad]

/-- The checks of a list pass when all of them do, in whatever two parts the list is given. -/
theorem firstFailing_append_eq_none {l l' : List (Bool × ErrCode)} :
    firstFailing (l ++ l') = none ↔ firstFailing l = none ∧ firstFailing l' = none := by
  rw [firstFailing_append, Option.or_eq_none_iff]

theorem firstFailing_single {b : Bool} {e : ErrCode} : firstFailing [(b, e)] = none ↔ b = true := by
  cases b <;> simp

/-! ### Plans -/

/-- A plan whose checks are a list and whose effect follows them. -/
def checked (checks : List (Bool × ErrCode)) (effect : Except Fault State) : Plan :=
  match firstFailing checks with
  | some e => .error e
  | none => .ok effect

theorem checked_eq_ok {checks : List (Bool × ErrCode)} {effect r : Except Fault State} :
    checked checks effect = .ok r ↔ firstFailing checks = none ∧ effect = r := by
  rw [checked]
  cases firstFailing checks <;> simp

theorem planAbsf_eq (p : Params) (row col : Nat) (s : State) :
    planAbsf p row col s =
      checked (checkGeom p s.nRows s.nCols ++
          [(decide (row < s.nRows.toNat) && decide (col < s.nCols.toNat), .operand)])
        ((readBlock s.mem s.nCols.toNat row col).bind fun blk => .ok { s with S := absorbFull blk s.S }) := by
  unfold planAbsf checked
  generalize readBlock = read
  generalize firstFailing _ = e
  cases e with
  | some e => rfl
  | none => cases read s.mem s.nCols.toNat row col <;> rfl

theorem planAbss_eq (n : Nat) (s : State) :
    planAbss n s = checked [(decide (n < s.nBlk.toNat), .operand)]
      ((readSafeBlock s.mem n).bind fun blk => .ok { s with S := absorbSafe blk s.S }) := by
  unfold planAbss checked
  generalize readSafeBlock = read
  generalize firstFailing _ = e
  cases e with
  | some e => rfl
  | none => cases read s.mem n <;> rfl

theorem planSqz_eq (p : Params) (s : State) :
    planSqz p s = checked [(decide (s.outLen.toNat ≤ p.outMax), .capacity)]
      (.ok { s with
        S := (squeeze s.outLen.toNat s.S).2
        mem := memWrite s.mem outBase (squeeze s.outLen.toNat s.S).1 }) :=
  rfl

theorem planPad_eq (p : Params) (s : State) :
    planPad p s = checked (checkPad p s)
      ((readBytes s.mem pwdBase s.pwdLen.toNat).bind fun pwd =>
        (readBytes s.mem saltBase s.saltLen.toNat).bind fun salt => .ok { s with
          mem := padProc s.outLen pwd salt s.timeCost s.nRows s.nCols s.mem
          nBlk := natReg (padBlocks pwd.length salt.length) }) := by
  unfold planPad checked
  generalize firstFailing _ = e
  cases e with
  | some e => rfl
  | none =>
    cases readBytes s.mem pwdBase s.pwdLen.toNat with
    | error f => rfl
    | ok pwd => cases readBytes s.mem saltBase s.saltLen.toNat <;> rfl

theorem rowEffect_eq (op : Work → Except Fault Work) (s : State) :
    rowEffect op s = (op { S := s.S, mem := s.mem }).bind fun w => .ok (storeWork w s) := by
  unfold rowEffect
  cases op { S := s.S, mem := s.mem } <;> rfl

theorem planSqrow0_eq (p : Params) (rout : Nat) (s : State) :
    planSqrow0 p rout s = checked (checkGeom p s.nRows s.nCols ++ [(rowOk s rout, .operand)])
      (rowEffect (squeezeRow0 p rout s.nCols.toNat) s) := rfl

theorem planDpxrow1_eq (p : Params) (rin rout : Nat) (s : State) :
    planDpxrow1 p rin rout s =
      checked (checkGeom p s.nRows s.nCols ++ [(rowOk s rin && rowOk s rout && decide (rin ≠ rout), .operand)])
        (rowEffect (duplexRow1 rin rout s.nCols.toNat) s) := rfl

theorem planDpxsetup_eq (p : Params) (prev rowa rnew : Nat) (s : State) :
    planDpxsetup p prev rowa rnew s =
      checked (checkGeom p s.nRows s.nCols ++
          [(rowOk s prev && rowOk s rowa && rowOk s rnew &&
            decide (prev ≠ rowa) && decide (prev ≠ rnew) && decide (rowa ≠ rnew), .operand)])
        (rowEffect (duplexRowSetup p prev rowa rnew s.nCols.toNat) s) := rfl

theorem planDpxwander_eq (p : Params) (prev rowa row : Nat) (s : State) :
    planDpxwander p prev rowa row s =
      checked (checkGeom p s.nRows s.nCols ++ [(rowOk s prev && rowOk s rowa && rowOk s row, .operand)])
        (rowEffect (duplexRow prev rowa row s.nCols.toNat) s) := rfl

theorem planSetup_eq (p : Params) (s : State) :
    planSetup p s = checked (checkParams p 1 s.nRows s.nCols)
      ((setupProc p s.nRows.toNat s.nCols.toNat { S := s.S, mem := s.mem }).bind fun x =>
        .ok (storeSched x.2 (storeWork x.1 s))) := by
  unfold planSetup checked
  generalize firstFailing _ = e
  cases e with
  | some e => rfl
  | none => cases setupProc p s.nRows.toNat s.nCols.toNat { S := s.S, mem := s.mem } <;> rfl

theorem planWander_eq (p : Params) (s : State) :
    planWander p s =
      checked (checkParams p s.timeCost s.nRows s.nCols ++ [(decide (s.prev.toNat < s.nRows.toNat), .operand)])
        ((wanderProc s.timeCost.toNat s.nRows.toNat s.nCols.toNat s.prev.toNat { S := s.S, mem := s.mem }).bind fun x =>
          .ok (storeTour x.2 (storeWork x.1 s))) := by
  unfold planWander checked
  generalize firstFailing _ = e
  cases e with
  | some e => rfl
  | none =>
    cases wanderProc s.timeCost.toNat s.nRows.toNat s.nCols.toNat s.prev.toNat { S := s.S, mem := s.mem } <;> rfl

theorem planDerive_eq (p : Params) (s : State) :
    planDerive p s =
      checked (checkParams p s.timeCost s.nRows s.nCols ++ checkPad p s ++
          [(decide (s.outLen.toNat ≤ p.outMax), .capacity)])
        ((readBytes s.mem pwdBase s.pwdLen.toNat).bind fun pwd =>
          (readBytes s.mem saltBase s.saltLen.toNat).bind fun salt =>
            (deriveProc p s.outLen pwd salt s.timeCost s.nRows s.nCols s.mem).bind fun d =>
              .ok { storeDerived d s with mem := memWrite d.work.mem outBase d.out }) := by
  unfold planDerive checked
  generalize firstFailing _ = e
  generalize deriveProc = derive
  cases e with
  | some e => rfl
  | none =>
    cases readBytes s.mem pwdBase s.pwdLen.toNat with
    | error f => rfl
    | ok pwd =>
      cases readBytes s.mem saltBase s.saltLen.toNat with
      | error f => rfl
      | ok salt =>
        cases h : derive p s.outLen pwd salt s.timeCost s.nRows s.nCols s.mem <;>
          simp only [h, ok_bind, error_bind]

theorem planPowhash_eq (p : Params) (s : State) :
    planPowhash p s = checked [(decide (s.hdrLen = 80), .hdrLen)]
      ((hashStages p stagesBefore s.mem).bind fun m3 => (deriveStage p m3).bind fun d =>
        (hashStages p stagesAfter d.work.mem).bind fun m7 =>
          .ok { storeDerived d s with mem := m7, acc := Vector.replicate 5 none }) := by
  unfold planPowhash checked
  generalize firstFailing _ = e
  generalize hashStages = stages
  generalize deriveStage = derive
  cases e with
  | some e => rfl
  | none =>
    cases h1 : stages p stagesBefore s.mem with
    | error f => simp only [error_bind]
    | ok m3 =>
      cases h2 : derive p m3 with
      | error f => simp only [h2, ok_bind, error_bind]
      | ok d => cases h3 : stages p stagesAfter d.work.mem <;> simp only [h2, h3, ok_bind, error_bind]

/-! The plans of the adapter commands look their operands up first; `…_ok` says what a plan that passes its checks
found, `…_eq` what it then does. -/

theorem planHpReset_ok {k : Nat} {s : State} {r : Except Fault State} (h : planHpReset k s = .ok r) :
    ∃ u, unit? k = some u ∧ r = .ok { s with acc := s.acc.set u (some []) } := by
  unfold planHpReset at h
  split at h
  next => cases h
  next u hu => cases h; exact ⟨u, hu, rfl⟩

theorem planHpUpdate_eq {k src : Nat} {s : State} {u : Fin 5} {b : Buf} {fed : List Byte} (hu : unit? k = some u)
    (hb : srcBuf? src = some b) (hh : hdrLenOk b s = true) (ha : s.acc[u] = some fed) :
    planHpUpdate k src s =
      .ok ((readBuf s.mem b).bind fun bs => .ok { s with acc := s.acc.set u (some (fed ++ bs)) }) := by
  unfold planHpUpdate
  generalize readBuf = read
  simp only [hu, hb, hh, ha, firstFailing_cons, firstFailing_nil, if_true]
  cases read s.mem b <;> rfl

theorem planHpUpdate_ok {k src : Nat} {s : State} {r : Except Fault State} (h : planHpUpdate k src s = .ok r) :
    ∃ u b fed, unit? k = some u ∧ srcBuf? src = some b ∧ s.acc[u] = some fed ∧
      r = (readBuf s.mem b).bind fun bs => .ok { s with acc := s.acc.set u (some (fed ++ bs)) } := by
  cases hu : unit? k with
  | none => simp [planHpUpdate, hu] at h
  | some u =>
    cases hb : srcBuf? src with
    | none => simp [planHpUpdate, hu, hb] at h
    | some b =>
      cases hh : hdrLenOk b s with
      | false => simp [planHpUpdate, hu, hb, hh] at h
      | true =>
        cases ha : s.acc[u] with
        | none => simp [planHpUpdate, hu, hb, hh, ha] at h
        | some fed =>
          rw [planHpUpdate_eq hu hb hh ha] at h
          cases h
          exact ⟨u, b, fed, rfl, rfl, ha, rfl⟩

theorem planHpDigest_ok {p : Params} {k dst : Nat} {s : State} {r : Except Fault State}
    (h : planHpDigest p k dst s = .ok r) :
    ∃ u b fed, unit? k = some u ∧ dstBuf? dst = some b ∧ s.acc[u] = some fed ∧
      r = .ok { s with mem := writeBuf s.mem b (hashOf p u fed), acc := s.acc.set u none } := by
  unfold planHpDigest at h
  split at h
  next u b hu hb =>
    split at h
    next => cases h
    next fed hf => cases h; exact ⟨u, b, fed, hu, hb, hf, rfl⟩
  next => cases h

theorem planHstage_eq {p : Params} {k src dst : Nat} {s : State} {u : Fin 5} {b d : Buf} (hu : unit? k = some u)
    (hb : srcBuf? src = some b) (hd : dstBuf? dst = some d) :
    planHstage p k src dst s = checked [(decide (b ≠ d), .operand), (hdrLenOk b s, .hdrLen)]
      ((hashStage p u b d s.mem).bind fun m => .ok { s with mem := m, acc := s.acc.set u none }) := by
  unfold planHstage checked
  generalize hashStage = stage
  simp only [hu, hb, hd]
  generalize firstFailing _ = e
  cases e with
  | some e => rfl
  | none => cases stage p u b d s.mem <;> rfl

theorem planHstage_ok {p : Params} {k src dst : Nat} {s : State} {r : Except Fault State}
    (h : planHstage p k src dst s = .ok r) :
    ∃ u b d, unit? k = some u ∧ srcBuf? src = some b ∧ dstBuf? dst = some d ∧
      r = (hashStage p u b d s.mem).bind fun m => .ok { s with mem := m, acc := s.acc.set u none } := by
  cases hu : unit? k with
  | none => simp [planHstage, hu] at h
  | some u =>
    cases hb : srcBuf? src with
    | none => simp [planHstage, hu, hb] at h
    | some b =>
      cases hd : dstBuf? dst with
      | none => simp [planHstage, hu, hb, hd] at h
      | some d =>
        rw [planHstage_eq hu hb hd, checked_eq_ok] at h
        exact ⟨u, b, d, rfl, rfl, rfl, h.2.symm⟩

theorem dstBuf?_ne_hdr {n : Nat} {b : Buf} (h : dstBuf? n = some b) : b ≠ .hdr := by
  unfold dstBuf? at h
  split at h <;> cases h <;> decide

end Sys2Proof.Proofs
end

section
/-! What a command can do, said once: the ranges of storage it writes (`planOf_footprint`), the fields of the state it
writes (`planOf_eq_written`), and how its `CMD` write can end (`exec_ending`). -/

namespace Sys2Proof.Proofs

open Sys2Proof.Machine Sys2Proof.Claims

/-! ### The storage (R23 to R26, R48) -/

/-- A row operation in a matrix that fits M. -/
theorem rowEffect_footprint {p : Params} {n : Nat} {op : Work → Except Fault Work} {s : State} (hn : n ≤ p.mBlocks)
    (h : Footprint (MatrixBlock n) s.mem Work.mem (op { S := s.S, mem := s.mem })) :
    Footprint (CommandRange p) s.mem State.mem (rowEffect op s) := by
  rw [rowEffect_eq]
  exact (h.mono fun _ _ => MatrixBlock.commandRange hn).bind fun w _ => .ok (Writes.refl _)

theorem rowOk_iff {s : State} {r : Nat} : rowOk s r = true ↔ r < s.nRows.toNat := decide_eq_true_iff

theorem two_le_of_power {n : Nat} (h : ∃ k, 0 < k ∧ n = 2 ^ k) : 2 ≤ n := by
  obtain ⟨k, hk, rfl⟩ := h
  exact Nat.pow_le_pow_right (by decide : 0 < 2) (show 1 ≤ k from hk)

theorem planDerive_footprint {p : Params} {s : State} {r : Except Fault State} (h : planDerive p s = .ok r) :
    Footprint (CommandRange p) s.mem State.mem r := by
  rw [planDerive_eq, checked_eq_ok, firstFailing_append_eq_none, firstFailing_append_eq_none, checkParams_passes,
    checkPad_passes, firstFailing_single, decide_eq_true_iff] at h
  obtain ⟨⟨⟨⟨-, ⟨-, -, hM⟩, hpow⟩, -, -, hpad⟩, hout⟩, rfl⟩ := h
  refine (readBytes_footprint _ _ _).bind fun pwd hp => (readBytes_footprint _ _ _).bind fun salt hs => ?_
  rw [← readBytes_length hp, ← readBytes_length hs] at hpad
  refine ((deriveProc_footprint (two_le_of_power hpow) _).mono fun _ _ =>
    DeriveRange.commandRange hpad hM).bind fun d hd => .ok (.single (.inr (.inl ⟨rfl, ?_⟩)))
  rw [deriveProc_out_length hd]
  exact hout

theorem planPowhash_footprint {p : Params} {s : State} {r : Except Fault State} (h : planPowhash p s = .ok r) :
    Footprint (CommandRange p) s.mem State.mem r := by
  rw [planPowhash_eq, checked_eq_ok] at h
  obtain ⟨-, rfl⟩ := h
  exact (hashStages_footprint p (by decide) _).bind fun m3 _ => (deriveStage_footprint p m3).bind fun d _ =>
    (hashStages_footprint p (by decide) _).bind fun m7 _ => .ok (Writes.refl _)

/-- A command whose checks pass writes only BUFA, BUFB and what fits OUT, PADBUF and M, and stops only at a byte that
held no value when it was issued. -/
theorem planOf_footprint {p : Params} {i : Instr} {s : State} {r : Except Fault State} (hi : runsAtOnce i = false)
    (h : planOf p i s = .ok r) : Footprint (CommandRange p) s.mem State.mem r := by
  cases i with
  | clr => cases hi
  | srst => cases hi
  | nop => cases h; exact .ok (Writes.refl _)
  | qr q => cases h; exact .ok (Writes.refl _)
  | permR => cases h; exact .ok (Writes.refl _)
  | permF => cases h; exact .ok (Writes.refl _)
  | sinit => cases h; exact .ok (Writes.refl _)
  | absf row col =>
    obtain ⟨-, rfl⟩ := checked_eq_ok.1 ((planAbsf_eq p row col s).symm.trans h)
    exact (readBlock_footprint _ _ _ _).bind fun _ _ => .ok (Writes.refl _)
  | abss n =>
    obtain ⟨-, rfl⟩ := checked_eq_ok.1 ((planAbss_eq n s).symm.trans h)
    exact (readSafeBlock_footprint _ _).bind fun _ _ => .ok (Writes.refl _)
  | sqz =>
    obtain ⟨hc, rfl⟩ := checked_eq_ok.1 ((planSqz_eq p s).symm.trans h)
    rw [firstFailing_single, decide_eq_true_iff] at hc
    exact .ok (.single (.inr (.inl ⟨rfl, by rw [length_squeeze]; exact hc⟩)))
  | pad =>
    obtain ⟨hc, rfl⟩ := checked_eq_ok.1 ((planPad_eq p s).symm.trans h)
    obtain ⟨-, -, hpad⟩ := checkPad_passes.1 hc
    refine (readBytes_footprint _ _ _).bind fun pwd hp => (readBytes_footprint _ _ _).bind fun salt hs => ?_
    exact .ok (.single (.inr (.inr (.inl ⟨rfl, by
      rw [length_padInput, readBytes_length hp, readBytes_length hs]; exact hpad⟩))))
  | sqrow0 rout =>
    obtain ⟨hc, rfl⟩ := checked_eq_ok.1 ((planSqrow0_eq p rout s).symm.trans h)
    rw [firstFailing_append_eq_none, checkGeom_passes, firstFailing_single, rowOk_iff] at hc
    obtain ⟨⟨-, -, hM⟩, hr⟩ := hc
    exact rowEffect_footprint hM (squeezeRow0_footprint hr _)
  | dpxrow1 rin rout =>
    obtain ⟨hc, rfl⟩ := checked_eq_ok.1 ((planDpxrow1_eq p rin rout s).symm.trans h)
    simp only [firstFailing_append_eq_none, checkGeom_passes, firstFailing_single, Bool.and_eq_true, rowOk_iff] at hc
    obtain ⟨⟨-, -, hM⟩, ⟨-, hr⟩, -⟩ := hc
    exact rowEffect_footprint hM (duplexRow1_footprint hr _)
  | dpxsetup prev rowa rnew =>
    obtain ⟨hc, rfl⟩ := checked_eq_ok.1 ((planDpxsetup_eq p prev rowa rnew s).symm.trans h)
    simp only [firstFailing_append_eq_none, checkGeom_passes, firstFailing_single, Bool.and_eq_true, rowOk_iff] at hc
    obtain ⟨⟨-, -, hM⟩, ⟨⟨⟨⟨-, ha⟩, hn⟩, -⟩, -⟩, -⟩ := hc
    exact rowEffect_footprint hM (duplexRowSetup_footprint ha hn _)
  | dpxwander prev rowa row =>
    obtain ⟨hc, rfl⟩ := checked_eq_ok.1 ((planDpxwander_eq p prev rowa row s).symm.trans h)
    simp only [firstFailing_append_eq_none, checkGeom_passes, firstFailing_single, Bool.and_eq_true, rowOk_iff] at hc
    obtain ⟨⟨-, -, hM⟩, ⟨-, ha⟩, hr⟩ := hc
    exact rowEffect_footprint hM (duplexRow_footprint ha hr _)
  | setup =>
    obtain ⟨hc, rfl⟩ := checked_eq_ok.1 ((planSetup_eq p s).symm.trans h)
    obtain ⟨-, ⟨-, -, hM⟩, hpow⟩ := checkParams_passes.1 hc
    exact ((setupProc_footprint (two_le_of_power hpow) { S := s.S, mem := s.mem }).mono fun _ _ =>
      MatrixBlock.commandRange hM).bind fun _ _ => .ok (Writes.refl _)
  | wander =>
    obtain ⟨hc, rfl⟩ := checked_eq_ok.1 ((planWander_eq p s).symm.trans h)
    rw [firstFailing_append_eq_none, checkParams_passes] at hc
    obtain ⟨⟨-, ⟨-, -, hM⟩, hpow⟩, -⟩ := hc
    have hR := two_le_of_power hpow
    exact ((wanderProc_footprint (by omega) { S := s.S, mem := s.mem }).mono fun _ _ =>
      MatrixBlock.commandRange hM).bind fun _ _ => .ok (Writes.refl _)
  | derive => exact planDerive_footprint h
  | hpReset k =>
    obtain ⟨u, -, rfl⟩ := planHpReset_ok h
    exact .ok (Writes.refl _)
  | hpUpdate k src =>
    obtain ⟨u, b, fed, -, -, -, rfl⟩ := planHpUpdate_ok h
    exact (readBuf_footprint _ _).bind fun _ _ => .ok (Writes.refl _)
  | hpDigest k dst =>
    obtain ⟨u, b, fed, -, hb, -, rfl⟩ := planHpDigest_ok h
    exact .ok (writeBuf_writes _ (dstBuf?_ne_hdr hb) (length_hashOf _ _ _))
  | hstage k src dst =>
    obtain ⟨u, b, d, -, -, hd, rfl⟩ := planHstage_ok h
    exact (hashStage_footprint p u b (dstBuf?_ne_hdr hd) _).bind fun _ _ => .ok (Writes.refl _)
  | powhash => exact planPowhash_footprint h

/-! ### The fields of the state (R48) -/

/-- `s` with the fields the effect of command `i` may write taken from `t`: the table of what each command writes. -/
def written (i : Instr) (s t : State) : State :=
  match i with
  | .nop | .clr | .srst => s
  | .qr _ | .permR | .permF | .sinit | .absf _ _ | .abss _ => { s with S := t.S }
  | .sqz | .sqrow0 _ | .dpxrow1 _ _ | .dpxsetup _ _ _ | .dpxwander _ _ _ => { s with S := t.S, mem := t.mem }
  | .pad => { s with mem := t.mem, nBlk := t.nBlk }
  | .setup | .wander =>
    { s with S := t.S, mem := t.mem, row := t.row, prev := t.prev, rowa := t.rowa, stride := t.stride,
             window := t.window, gap := t.gap, tau := t.tau }
  | .derive =>
    { s with S := t.S, mem := t.mem, nBlk := t.nBlk, row := t.row, prev := t.prev, rowa := t.rowa, stride := t.stride,
             window := t.window, gap := t.gap, tau := t.tau }
  | .powhash =>
    { s with S := t.S, mem := t.mem, nBlk := t.nBlk, row := t.row, prev := t.prev, rowa := t.rowa, stride := t.stride,
             window := t.window, gap := t.gap, tau := t.tau, acc := t.acc }
  | .hpReset _ | .hpUpdate _ _ | .hpDigest _ _ | .hstage _ _ _ => { s with mem := t.mem, acc := t.acc }

theorem rowEffect_ok {op : Work → Except Fault Work} {s t : State} (h : rowEffect op s = .ok t) :
    ∃ w, t = storeWork w s := by
  rw [rowEffect_eq, bind_eq_ok] at h
  obtain ⟨w, -, h⟩ := h
  cases h
  exact ⟨w, rfl⟩

/-- A row command writes `S` and the storage. -/
theorem checked_rowEffect_ok {checks : List (Bool × ErrCode)} {op : Work → Except Fault Work} {s t : State}
    (h : checked checks (rowEffect op s) = .ok (.ok t)) : t = { s with S := t.S, mem := t.mem } := by
  obtain ⟨w, rfl⟩ := rowEffect_ok (checked_eq_ok.1 h).2
  rfl

/-- An effect that writes `S` only. -/
theorem written_S_of_ok {S' : Vector Word 16} {s t : State}
    (h : (.ok { s with S := S' } : Except Fault State) = .ok t) : t = { s with S := t.S } := by
  cases h; rfl

/-- A command that completes changes only the fields its row of the table lists. -/
theorem planOf_eq_written {p : Params} {i : Instr} {s t : State} (hi : runsAtOnce i = false)
    (h : planOf p i s = .ok (.ok t)) : t = written i s t := by
  cases i with
  | clr => cases hi
  | srst => cases hi
  | nop => cases h; rfl
  | qr q => exact written_S_of_ok (Except.ok.inj h)
  | permR => exact written_S_of_ok (Except.ok.inj h)
  | permF => exact written_S_of_ok (Except.ok.inj h)
  | sinit => exact written_S_of_ok (Except.ok.inj h)
  | absf row col =>
    obtain ⟨blk, -, ht⟩ := bind_eq_ok.1 (checked_eq_ok.1 ((planAbsf_eq p row col s).symm.trans h)).2
    exact written_S_of_ok ht
  | abss n =>
    obtain ⟨blk, -, ht⟩ := bind_eq_ok.1 (checked_eq_ok.1 ((planAbss_eq n s).symm.trans h)).2
    exact written_S_of_ok ht
  | sqz =>
    obtain ⟨-, ht⟩ := checked_eq_ok.1 ((planSqz_eq p s).symm.trans h)
    cases ht; rfl
  | pad =>
    obtain ⟨pwd, -, ht⟩ := bind_eq_ok.1 (checked_eq_ok.1 ((planPad_eq p s).symm.trans h)).2
    obtain ⟨salt, -, ht⟩ := bind_eq_ok.1 ht
    cases ht; rfl
  | sqrow0 rout => exact checked_rowEffect_ok ((planSqrow0_eq p rout s).symm.trans h)
  | dpxrow1 rin rout => exact checked_rowEffect_ok ((planDpxrow1_eq p rin rout s).symm.trans h)
  | dpxsetup prev rowa rnew => exact checked_rowEffect_ok ((planDpxsetup_eq p prev rowa rnew s).symm.trans h)
  | dpxwander prev rowa row => exact checked_rowEffect_ok ((planDpxwander_eq p prev rowa row s).symm.trans h)
  | setup =>
    obtain ⟨x, -, ht⟩ := bind_eq_ok.1 (checked_eq_ok.1 ((planSetup_eq p s).symm.trans h)).2
    cases ht; rfl
  | wander =>
    obtain ⟨x, -, ht⟩ := bind_eq_ok.1 (checked_eq_ok.1 ((planWander_eq p s).symm.trans h)).2
    cases ht; rfl
  | derive =>
    obtain ⟨pwd, -, ht⟩ := bind_eq_ok.1 (checked_eq_ok.1 ((planDerive_eq p s).symm.trans h)).2
    obtain ⟨salt, -, ht⟩ := bind_eq_ok.1 ht
    obtain ⟨d, -, ht⟩ := bind_eq_ok.1 ht
    cases ht; rfl
  | hpReset k =>
    obtain ⟨u, -, ht⟩ := planHpReset_ok h
    cases ht; rfl
  | hpUpdate k src =>
    obtain ⟨u, b, fed, -, -, -, ht⟩ := planHpUpdate_ok h
    obtain ⟨bs, -, ht⟩ := bind_eq_ok.1 ht.symm
    cases ht; rfl
  | hpDigest k dst =>
    obtain ⟨u, b, fed, -, -, -, ht⟩ := planHpDigest_ok h
    cases ht; rfl
  | hstage k src dst =>
    obtain ⟨u, b, d, -, -, -, ht⟩ := planHstage_ok h
    obtain ⟨m, -, ht⟩ := bind_eq_ok.1 ht.symm
    cases ht; rfl
  | powhash =>
    obtain ⟨m3, -, ht⟩ := bind_eq_ok.1 (checked_eq_ok.1 ((planPowhash_eq p s).symm.trans h)).2
    obtain ⟨d, -, ht⟩ := bind_eq_ok.1 ht
    obtain ⟨m7, -, ht⟩ := bind_eq_ok.1 ht
    cases ht; rfl

/-! ### How a command ends (R61 to R63) -/

/-- The ways the `CMD` write of command `i` on `s` can answer a next state. -/
inductive Ending (i : Instr) (s : State) : State → Prop
  /-- The write is dropped. -/
  | dropped (h : busy s = true ∨ (s.err.isSome = true ∧ runsAtOnce i = false)) : Ending i s (setHaz s)
  /-- A check fails. -/
  | refused (e : ErrCode) (hi : runsAtOnce i = false) (hr : Ready s) (h : planOf Config.params i s = .error e) :
    Ending i s (raiseError e s)
  /-- The command completes. -/
  | completed (t : State) (hi : runsAtOnce i = false) (hr : Ready s) (h : planOf Config.params i s = .ok (.ok t)) :
    Ending i s (complete t)
  /-- `CLR` runs. -/
  | cleared (hi : i = .clr) (hr : s.running = none) : Ending i s (clearStatus s)
  /-- `SRST` runs. -/
  | reset (hi : i = .srst) (hr : s.running = none) : Ending i s (resetState s)

theorem busy_eq_false {s : State} : busy s = false ↔ s.running = none := Option.isSome_eq_false_iff.trans (by simp)

theorem runsAtOnce_iff {i : Instr} : runsAtOnce i = true ↔ i = .clr ∨ i = .srst := by
  cases i <;> simp [runsAtOnce]

theorem exec_ending {i : Instr} {s t : State} (h : exec i s = .next t) : Ending i s t := by
  cases hi : runsAtOnce i with
  | false =>
    rw [exec_eq_issue hi] at h
    rcases issue_eq_next h with ⟨hd, rfl⟩ | ⟨hb, he, e, hp, rfl⟩ | ⟨hb, he, s', hp, rfl⟩
    · exact .dropped (hd.imp_right fun he => ⟨he, hi⟩)
    · exact .refused e hi ⟨busy_eq_false.1 hb, he⟩ hp
    · exact .completed s' hi ⟨busy_eq_false.1 hb, he⟩ hp
  | true =>
    rcases runsAtOnce_iff.1 hi with rfl | rfl
    · rw [exec_clr] at h
      split at h <;> cases h
      next hb => exact .dropped (.inl hb)
      next hb => exact .cleared rfl (busy_eq_false.1 (by simpa using hb))
    · rw [exec_srst] at h
      split at h <;> cases h
      next hb => exact .dropped (.inl hb)
      next hb => exact .reset rfl (busy_eq_false.1 (by simpa using hb))

/-- A command stops only where its effect does. -/
theorem exec_eq_fault {i : Instr} {s : State} {f : Fault} (h : exec i s = .fault f) :
    runsAtOnce i = false ∧ planOf Config.params i s = .ok (.error f) := by
  cases hi : runsAtOnce i with
  | false =>
    rw [exec_eq_issue hi] at h
    exact ⟨rfl, (issue_eq_fault h).2.2⟩
  | true =>
    rcases runsAtOnce_iff.1 hi with rfl | rfl
    · rw [exec_clr] at h; split at h <;> cases h
    · rw [exec_srst] at h; split at h <;> cases h

/-- The effect of a command does not touch the flags, the sequencer position and the model's own fields. -/
theorem written_control (i : Instr) (s t : State) :
    (written i s t).running = s.running ∧ (written i s t).done = s.done ∧ (written i s t).haz = s.haz ∧
      (written i s t).err = s.err ∧ (written i s t).seq = s.seq ∧ (written i s t).port = s.port ∧
      (written i s t).resp = s.resp ∧ (written i s t).offProtocol = s.offProtocol := by
  cases i <;> exact ⟨rfl, rfl, rfl, rfl, rfl, rfl, rfl, rfl⟩

/-- A command that completes has its row of the table for every field. -/
theorem completed_field {α : Type} {i : Instr} {s t : State} (hi : runsAtOnce i = false)
    (h : planOf Config.params i s = .ok (.ok t)) (f : State → α) : f t = f (written i s t) :=
  congrArg f (planOf_eq_written hi h)

end Sys2Proof.Proofs
end

section
/-! The host port said once: which addresses are mapped (R37), what one action of the outside world leaves (R38 to R44),
and what one step can be (R49). -/

namespace Sys2Proof.Proofs

open Sys2Proof.Machine Sys2Proof.Claims

/-! ### Bounds of the parameters (R9) -/

theorem pwdMax_le (p : Params) : p.pwdMax ≤ 4096 := by
  have := p.pwdWords.isLt
  unfold Params.pwdMax
  omega

theorem saltMax_le (p : Params) : p.saltMax ≤ 4096 := by
  have := p.saltWords.isLt
  unfold Params.saltMax
  omega

theorem outMax_le (p : Params) : p.outMax ≤ 4096 := by
  have := p.outWords.isLt
  unfold Params.outMax
  omega

theorem padMax_le (p : Params) : p.padMax ≤ 16384 := by
  have := p.padExtra.isLt
  unfold Params.padMax
  omega

/-! ### The address map (R37) -/

theorem memMapped_iff {p : Params} {a : Nat} :
    memMapped p a = true ↔ (0x180 ≤ a ∧ a < 0x1D0) ∨ (0x200 ≤ a ∧ a < 0x240) ∨
      (0x1000 ≤ a ∧ a < 0x1000 + p.pwdMax) ∨ (0x2000 ≤ a ∧ a < 0x2000 + p.saltMax) ∨
      (0x3000 ≤ a ∧ a < 0x3000 + p.outMax) ∨ (0x4000 ≤ a ∧ a < 0x4000 + p.padMax) ∨
      (0x10000 ≤ a ∧ a < 0x10000 + 96 * p.mBlocks) := by
  simp only [memMapped, Bool.or_eq_true, Bool.and_eq_true, decide_eq_true_eq]
  simp only [hdrBase, bufABase, bufBBase, pwdBase, saltBase, outBase, padBase, mBase]
  omega

theorem mem_of_lookup_regMap {a : Nat} {r : HostReg} (h : regMap.lookup a = some r) : (a, r) ∈ regMap := by
  obtain ⟨l, l', he, -⟩ := List.lookup_eq_some_iff.1 h
  rw [he]
  exact List.mem_append_right _ List.mem_cons_self

theorem lookup_regMap_lt {a : Nat} {r : HostReg} (h : regMap.lookup a = some r) : a < 0x88 := by
  have hall : ∀ x ∈ regMap, x.1 < 0x88 := by decide
  exact hall _ (mem_of_lookup_regMap h)

theorem lookup_regMap_status {a : Nat} : regMap.lookup a = some .status ↔ a = 8 := by
  have hall : ∀ x ∈ regMap, x.2 = .status → x.1 = 8 := by decide
  exact ⟨fun h => hall _ (mem_of_lookup_regMap h) rfl, fun h => h ▸ rfl⟩

/-- Every aligned address below 0x88 is a register's. -/
theorem lookup_regMap_isSome {a : Nat} (ha : a % 8 = 0) (h : a < 0x88) : ∃ r, regMap.lookup a = some r := by
  have hall : ∀ k < 17, (regMap.lookup (8 * k)).isSome = true := by decide
  have := hall (a / 8) (by omega)
  rw [show 8 * (a / 8) = a by omega] at this
  exact Option.isSome_iff_exists.1 this

theorem lookup_regMap_eq_none {a : Nat} (h : 0x88 ≤ a) : regMap.lookup a = none := by
  cases hr : regMap.lookup a with
  | none => rfl
  | some r => have := lookup_regMap_lt hr; omega

/-- What an address above the registers names (R37). -/
theorem locOf?_of_ge {p : Params} {a : Nat} (h : 0x88 ≤ a) :
    (∃ i : Fin 16, i.val = (a - 0x100) / 8 ∧ 0x100 ≤ a ∧ a < 0x180 ∧ locOf? p a = some (.sponge i)) ∨
    (¬ (0x100 ≤ a ∧ a < 0x180) ∧ locOf? p a = if memMapped p a then some (.storage a) else none) := by
  unfold locOf?
  rw [lookup_regMap_eq_none h]
  by_cases hs : sBase ≤ a ∧ a < sBase + 128
  · left
    simp only [hs]
    exact ⟨_, rfl, hs.1, hs.2, by rfl⟩
  · right
    simp only [hs]
    exact ⟨hs, rfl⟩

theorem locOf?_reg {p : Params} {a : Nat} {r : HostReg} (h : regMap.lookup a = some r) :
    locOf? p a = some (.reg r) := by
  unfold locOf?
  rw [h]

/-- The claims' address map is the machine's, on aligned addresses. -/
theorem locOf?_isSome_iff {a : Nat} (ha : a % 8 = 0) : (locOf? Config.params a).isSome = true ↔ Mapped a := by
  unfold Mapped
  by_cases h : a < 0x88
  · obtain ⟨r, hr⟩ := lookup_regMap_isSome ha h
    rw [locOf?_reg hr]
    simp [h]
  · rcases locOf?_of_ge (p := Config.params) (by omega : 0x88 ≤ a) with ⟨i, -, h1, h2, he⟩ | ⟨hn, he⟩
    · rw [he]
      simp only [Option.isSome_some, true_iff]
      omega
    · have hm := memMapped_iff (p := Config.params) (a := a)
      rw [he]
      cases hb : memMapped Config.params a
      · rw [hb] at hm
        simp only [Bool.false_eq_true, false_iff, if_false, Option.isSome_none] at hm ⊢
        omega
      · rw [hb] at hm
        simp only [if_true, Option.isSome_some, true_iff] at hm ⊢
        omega

theorem locOf?_status {a : Nat} : locOf? Config.params a = some (.reg .status) ↔ a = 8 := by
  constructor
  · intro h
    unfold locOf? at h
    split at h
    next r hr => cases h; exact lookup_regMap_status.1 hr
    next => split at h <;> [cases h; split at h <;> cases h]
  · rintro rfl
    exact locOf?_reg (by rfl)

theorem locOf?_storage {p : Params} {a b : Nat} (h : locOf? p a = some (.storage b)) : b = a := by
  unfold locOf? at h
  split at h
  next => cases h
  next =>
    split at h
    next => cases h
    next => split at h <;> cases h; rfl

/-! ### What a transaction addresses (R41, R43) -/

theorem target?_eq_some {p : Params} {addr : Addr} {bytes : Nat} {l : Loc} (h : target? p addr bytes = some l) :
    bytes = 8 ∧ addr.toNat % 8 = 0 ∧ locOf? p addr.toNat = some l := by
  unfold target? at h
  split at h
  next hc => exact ⟨hc.1, hc.2, h⟩
  next => cases h

theorem target?_aligned {p : Params} {addr : Addr} (ha : addr.toNat % 8 = 0) :
    target? p addr 8 = locOf? p addr.toNat := if_pos ⟨rfl, ha⟩

/-- A mapped, aligned address names something. -/
theorem target?_of_mapped {addr : Addr} (ha : addr.toNat % 8 = 0) (hm : Mapped addr.toNat) :
    ∃ l, target? Config.params addr 8 = some l := by
  rw [target?_aligned ha]
  exact Option.isSome_iff_exists.1 ((locOf?_isSome_iff ha).2 hm)

theorem mapped_of_target? {addr : Addr} {bytes : Nat} {l : Loc} (h : target? Config.params addr bytes = some l) :
    bytes = 8 ∧ addr.toNat % 8 = 0 ∧ Mapped addr.toNat := by
  obtain ⟨hb, ha, hl⟩ := target?_eq_some h
  exact ⟨hb, ha, (locOf?_isSome_iff ha).1 (by rw [hl]; rfl)⟩

theorem addr_eq_eight {addr : Addr} : addr.toNat = 8 ↔ addr = 8 :=
  ⟨fun h => BitVec.eq_of_toNat_eq h, fun h => by rw [h]; rfl⟩

/-! ### One action -/

/-- A host read leaves everything but the response and the count of free values (R38). -/
theorem hostRead_eq (p : Params) (addr : Addr) (bytes : Nat) (s : State) :
    ∃ r n, hostRead p addr bytes s = { s with resp := some r, freeCount := n } := by
  unfold hostRead
  split
  next => exact ⟨_, _, rfl⟩
  next => exact ⟨_, _, rfl⟩
  next => exact ⟨_, _, rfl⟩
  next a _ =>
    cases wordHeld s.mem a
    · exact ⟨_, _, rfl⟩
    · exact ⟨_, _, rfl⟩

/-- What the outside world's action `act` can leave while no command runs. -/
inductive Served (act : PortAction) (s : State) : State → Prop
  /-- The reset input. -/
  | reset (h : act = .reset) : Served act s (resetState s)
  /-- A read. -/
  | read (r : Response) (n : Nat) : Served act s { s with resp := some r, freeCount := n }
  /-- A transaction that ends in ERROR. -/
  | error : Served act s (respond .error s)
  /-- A `CMD` write that is no command, with an error pending. -/
  | illegalDropped : Served act s (setHaz (respond .okay s))
  /-- A `CMD` write that is no command. -/
  | illegal : Served act s (raiseError .illegal (respond .okay s))
  /-- A `CMD` write of a command that is left running. -/
  | started (i : Instr) (h : starts Config.params i (respond .okay s) = true) : Served act s (start i (respond .okay s))
  /-- A `CMD` write of a command that ends in it. -/
  | executed (i : Instr) (t : State) (h : exec i (respond .okay s) = .next t) : Served act s t
  /-- A write to another location. -/
  | stored (addr : Addr) (bytes : Nat) (v : Word) (l : Loc) (h : target? Config.params addr bytes = some l) :
    Served act s (respond .okay (hostWrite l v s))

theorem command_served {act : PortAction} {v : Word} {s t : State}
    (h : command Config.params v (respond .okay s) = .next t) : Served act s t := by
  unfold command at h
  split at h
  next =>
    split at h <;> cases h
    · exact .illegalDropped
    · exact .illegal
  next i _ =>
    split at h
    next hs =>
      cases h
      rw [Bool.and_eq_true] at hs
      exact .started i hs.2
    next => exact .executed i t h

theorem actIdle_served {act : PortAction} {s t : State} (h : actIdle Config.params act s = .next t) :
    Served act s t := by
  cases act with
  | reset => cases h; exact .reset rfl
  | read addr bytes =>
    obtain ⟨r, n, he⟩ := hostRead_eq Config.params addr bytes s
    change Host.Outcome.next (hostRead Config.params addr bytes s) = .next t at h
    rw [he] at h
    cases h
    exact .read r n
  | write addr bytes v =>
    change (match target? Config.params addr bytes with
      | none => _
      | some (.reg .cmd) => _
      | some l => _) = _ at h
    split at h
    next => cases h; exact .error
    next => exact command_served h
    next l _ hl => cases h; exact .stored addr bytes v l hl

/-- What the outside world's action `act` leaves while a command runs (R44). -/
inductive ServedBusy (act : PortAction) (s : State) : State → Prop
  /-- The reset input. -/
  | reset (h : act = .reset) : ServedBusy act s (resetState s)
  /-- A read of `STATUS`, or a transaction that ends in ERROR. -/
  | answered (r : Response) : ServedBusy act s (respond r s)
  /-- Any other read. -/
  | hazRead (addr : Addr) (h : act = .read addr 8) (ha : addr.toNat % 8 = 0) (hm : Mapped addr.toNat) (hne : addr ≠ 8) :
    ServedBusy act s (hazRead s)
  /-- A write. -/
  | hazWrite (addr : Addr) (v : Word) (h : act = .write addr 8 v) (ha : addr.toNat % 8 = 0) (hm : Mapped addr.toNat) :
    ServedBusy act s (hazWrite s)

theorem actBusy_served (act : PortAction) (s : State) : ServedBusy act s (actBusy Config.params act s) := by
  cases act with
  | reset => exact .reset rfl
  | read addr bytes =>
    unfold actBusy
    dsimp only
    split
    next => exact .answered _
    next l hne hl =>
      obtain ⟨rfl, ha, hm⟩ := mapped_of_target? hl
      refine .hazRead addr rfl ha hm fun h8 => hne ?_
      rw [target?_aligned ha, locOf?_status.2 (addr_eq_eight.2 h8)] at hl
      exact (Option.some.inj hl).symm
    next => exact .answered _
  | write addr bytes v =>
    unfold actBusy
    dsimp only
    split
    next l hl =>
      obtain ⟨rfl, ha, hm⟩ := mapped_of_target? hl
      exact .hazWrite addr v rfl ha hm
    next => exact .answered _

/-- What one step can be (R49). -/
inductive Move (s : State) : State → Prop
  /-- Nothing runs and nothing is pending. -/
  | wait : Move s s
  /-- The outside world acts while no command runs. -/
  | idle (e : PortEvent) (rest : List PortEvent) (t : State) (hr : s.running = none) (hp : s.port = e :: rest)
    (h : Served e.act { s with port := rest } t) : Move s t
  /-- The running command completes. -/
  | finish (i : Instr) (t : State) (hr : s.running = some i) (h : exec i { s with running := none } = .next t) :
    Move s t
  /-- The outside world acts while a command runs. -/
  | busy (i : Instr) (e : PortEvent) (rest : List PortEvent) (t : State) (hr : s.running = some i)
    (hp : s.port = e :: rest) (he : e.early = true) (h : ServedBusy e.act { s with port := rest } t) : Move s t

theorem step_move {s t : State} (h : step s = .next t) : Move s t := by
  unfold step at h
  split at h
  next => cases h; exact .wait
  next e rest hr hp => exact .idle e rest t hr hp (actIdle_served h)
  next i hr hp => exact .finish i t hr h
  next i e rest hr hp =>
    split at h
    next he => cases h; exact .busy i e rest _ hr hp he (actBusy_served _ _)
    next => exact .finish i t hr h

end Sys2Proof.Proofs
end

section
/-! What commands leave alone (R16 to R28, R48) and the invariants of every step. -/

namespace Sys2Proof.Proofs

open Sys2Proof.Machine Sys2Proof.Claims

/-! ### Registers, `S` and `ACC` -/

/-- What command `i` leaves alone of the registers, `S` and `ACC`, from `s` to `t` (R16 to R20, R28, R48). -/
def RegisterFrame (i : Instr) (s t : State) : Prop :=
  (t.outLen = s.outLen ∧ t.pwdLen = s.pwdLen ∧ t.saltLen = s.saltLen ∧ t.timeCost = s.timeCost ∧
    t.nRows = s.nRows ∧ t.nCols = s.nCols ∧ t.hdrLen = s.hdrLen) ∧
  ((i ≠ .setup ∧ i ≠ .wander ∧ i ≠ .derive ∧ i ≠ .powhash) →
    t.row = s.row ∧ t.prev = s.prev ∧ t.rowa = s.rowa ∧ t.stride = s.stride ∧ t.window = s.window ∧
    t.gap = s.gap ∧ t.tau = s.tau) ∧
  ((i ≠ .pad ∧ i ≠ .derive ∧ i ≠ .powhash) → t.nBlk = s.nBlk) ∧
  ((i = .nop ∨ i = .clr ∨ i = .pad ∨ (∃ k, i = .hpReset k) ∨ (∃ k b, i = .hpUpdate k b) ∨
    (∃ k b, i = .hpDigest k b) ∨ (∃ k b c, i = .hstage k b c)) → t.S = s.S) ∧
  (((∀ k, i ≠ .hpReset k) ∧ (∀ k b, i ≠ .hpUpdate k b) ∧ (∀ k b, i ≠ .hpDigest k b) ∧
    (∀ k b c, i ≠ .hstage k b c) ∧ i ≠ .powhash) → t.acc = s.acc)

section
variable (i : Instr) (s t : State)

theorem written_parameters :
    (written i s t).outLen = s.outLen ∧ (written i s t).pwdLen = s.pwdLen ∧ (written i s t).saltLen = s.saltLen ∧
      (written i s t).timeCost = s.timeCost ∧ (written i s t).nRows = s.nRows ∧ (written i s t).nCols = s.nCols ∧
      (written i s t).hdrLen = s.hdrLen := by
  cases i <;> exact ⟨rfl, rfl, rfl, rfl, rfl, rfl, rfl⟩

theorem written_sequencer (h : i ≠ .setup ∧ i ≠ .wander ∧ i ≠ .derive ∧ i ≠ .powhash) :
    (written i s t).row = s.row ∧ (written i s t).prev = s.prev ∧ (written i s t).rowa = s.rowa ∧
      (written i s t).stride = s.stride ∧ (written i s t).window = s.window ∧ (written i s t).gap = s.gap ∧
      (written i s t).tau = s.tau := by
  obtain ⟨hsetup, hwander, hderive, hpowhash⟩ := h
  cases i with
  | setup => exact absurd rfl hsetup
  | wander => exact absurd rfl hwander
  | derive => exact absurd rfl hderive
  | powhash => exact absurd rfl hpowhash
  | _ => exact ⟨rfl, rfl, rfl, rfl, rfl, rfl, rfl⟩

theorem written_nBlk (h : i ≠ .pad ∧ i ≠ .derive ∧ i ≠ .powhash) : (written i s t).nBlk = s.nBlk := by
  obtain ⟨hpad, hderive, hpowhash⟩ := h
  cases i with
  | pad => exact absurd rfl hpad
  | derive => exact absurd rfl hderive
  | powhash => exact absurd rfl hpowhash
  | _ => rfl

theorem written_S (h : i = .nop ∨ i = .clr ∨ i = .pad ∨ (∃ k, i = .hpReset k) ∨ (∃ k b, i = .hpUpdate k b) ∨
    (∃ k b, i = .hpDigest k b) ∨ (∃ k b c, i = .hstage k b c)) : (written i s t).S = s.S := by
  rcases h with rfl | rfl | rfl | ⟨k, rfl⟩ | ⟨k, b, rfl⟩ | ⟨k, b, rfl⟩ | ⟨k, b, c, rfl⟩ <;> rfl

theorem written_acc (h : (∀ k, i ≠ .hpReset k) ∧ (∀ k b, i ≠ .hpUpdate k b) ∧ (∀ k b, i ≠ .hpDigest k b) ∧
    (∀ k b c, i ≠ .hstage k b c) ∧ i ≠ .powhash) : (written i s t).acc = s.acc := by
  obtain ⟨hreset, hupdate, hdigest, hstage, hpowhash⟩ := h
  cases i with
  | hpReset k => exact absurd rfl (hreset k)
  | hpUpdate k b => exact absurd rfl (hupdate k b)
  | hpDigest k b => exact absurd rfl (hdigest k b)
  | hstage k b c => exact absurd rfl (hstage k b c)
  | powhash => exact absurd rfl hpowhash
  | _ => rfl

theorem registerFrame_written : RegisterFrame i s (written i s t) :=
  ⟨written_parameters i s t, written_sequencer i s t, written_nBlk i s t, written_S i s t, written_acc i s t⟩

/-- A state with the same registers, `S` and `ACC`. -/
theorem registerFrame_self : RegisterFrame i s s :=
  ⟨⟨rfl, rfl, rfl, rfl, rfl, rfl, rfl⟩, fun _ => ⟨rfl, rfl, rfl, rfl, rfl, rfl, rfl⟩, fun _ => rfl, fun _ => rfl,
    fun _ => rfl⟩

end

/-- Settles O55: a command that completes writes only its row of `written`; the other endings write the flags only. -/
theorem commandsLeaveOtherRegistersAlone : Obligations.CommandsLeaveOtherRegistersAlone := by
  intro i s t hi h
  change RegisterFrame i s t
  cases exec_ending h with
  | dropped => exact registerFrame_self i s
  | refused => exact registerFrame_self i s
  | completed t hat hr hp =>
    have hw : RegisterFrame i s t := planOf_eq_written hat hp ▸ registerFrame_written i s t
    exact hw
  | cleared => exact registerFrame_self i s
  | reset hs => exact absurd hs hi

/-! ### The storage -/

/-- Where a command can write, as numbers of the address map (R37). -/
theorem CommandRange.bounds {p : Params} {base len : Nat} (h : CommandRange p base len) :
    (0x200 ≤ base ∧ base + len ≤ 0x240) ∨ (0x3000 ≤ base ∧ base + len ≤ 0x8000) ∨
      (∃ k, k < p.mBlocks ∧ base = 0x10000 + 96 * k ∧ len = 96) := by
  have ho := outMax_le p
  have hp := padMax_le p
  rcases h with ⟨h, hl⟩ | ⟨h, hl⟩ | ⟨h, hl⟩ | ⟨hl, k, hk, h⟩
  · simp only [bufABase, bufBBase] at h
    omega
  · simp only [outBase] at h
    omega
  · simp only [padBase] at h
    omega
  · exact .inr (.inr ⟨k, hk, h, hl⟩)

/-- Every command but `SRST` leaves the storage to writes in the ranges of the commands. -/
theorem exec_writes {i : Instr} {s t : State} (hi : i ≠ .srst) (h : exec i s = .next t) :
    Writes (CommandRange Config.params) s.mem t.mem := by
  cases exec_ending h with
  | dropped => exact Writes.refl _
  | refused => exact Writes.refl _
  | completed t hat hr hp => exact planOf_footprint hat hp
  | cleared => exact Writes.refl _
  | reset hs => exact absurd hs hi

/-- Settles O56: HDR, PWD and SALT lie outside every range a command writes. -/
theorem commandsLeaveHostBuffersAlone : Obligations.CommandsLeaveHostBuffersAlone := by
  intro i s t hi h a ha
  refine (exec_writes hi h).memGet?_eq fun base len hb => ?_
  have hp := pwdMax_le Config.params
  have hs := saltMax_le Config.params
  rcases hb.bounds with hb | hb | ⟨k, -, rfl, rfl⟩ <;> omega

/-! ### Words of M wholly held or wholly without value (R26, R27) -/

/-- Each word of M has all of its bytes or none. -/
def WordsWhole (m : Memory) : Prop :=
  ∀ w, (∀ i, i < 8 → (memGet? m (mBase + 8 * w + i)).isSome = true) ∨
       (∀ i, i < 8 → memGet? m (mBase + 8 * w + i) = none)

/-- The write ends below M or covers whole words. -/
def WordRange (base len : Nat) : Prop := base + len ≤ mBase ∨ (base % 8 = 0 ∧ len % 8 = 0)

theorem WordsWhole.memWrite {m : Memory} {base : Nat} {bs : List Byte} (h : WordRange base bs.length)
    (hm : WordsWhole m) : WordsWhole (memWrite m base bs) := by
  intro w
  have hM : mBase = 0x10000 := rfl
  unfold WordRange at h
  by_cases hin : base ≤ mBase + 8 * w ∧ mBase + 8 * w + 8 ≤ base + bs.length
  · refine .inl fun i hi => ?_
    have := memGet?_memWrite_inside (m := m) (base := base) (bs := bs) (k := mBase + 8 * w + i - base) (by omega)
    rw [show base + (mBase + 8 * w + i - base) = mBase + 8 * w + i by omega] at this
    rw [this]
    rfl
  · have hout : ∀ i, i < 8 →
        memGet? (Machine.memWrite m base bs) (mBase + 8 * w + i) = memGet? m (mBase + 8 * w + i) :=
      fun i hi => memGet?_memWrite_outside (by omega)
    exact (hm w).imp (fun h i hi => by rw [hout i hi]; exact h i hi) (fun h i hi => by rw [hout i hi]; exact h i hi)

theorem CommandRange.wordRange {p : Params} {base len : Nat} (h : CommandRange p base len) : WordRange base len := by
  have hM : mBase = 0x10000 := rfl
  unfold WordRange
  rcases h.bounds with hb | hb | ⟨k, -, rfl, rfl⟩ <;> omega

theorem wordsWhole_reset : WordsWhole State.reset.mem := fun _ => .inr fun _ _ => rfl

theorem exec_wordsWhole {i : Instr} {s t : State} (h : exec i s = .next t) (hs : WordsWhole s.mem) :
    WordsWhole t.mem := by
  by_cases hi : i = .srst
  · subst hi
    cases exec_ending h with
    | dropped => exact hs
    | reset => exact wordsWhole_reset
    | refused e hat => cases hat
    | completed t hat => cases hat
    | cleared hc => cases hc
  · exact (exec_writes hi h).preserves (fun _ _ _ hb => WordsWhole.memWrite hb.wordRange) hs

theorem writeReg_mem (r : HostReg) (v : Word) (s : State) : (writeReg r v s).mem = s.mem := by
  cases r <;> rfl

/-- A host write to storage covers one aligned word (R39, R41). -/
theorem hostWrite_wordsWhole {addr : Addr} {bytes : Nat} {l : Loc} (v : Word) {s : State}
    (h : target? Config.params addr bytes = some l) (hs : WordsWhole s.mem) : WordsWhole (hostWrite l v s).mem := by
  cases l with
  | reg r =>
    change WordsWhole (writeReg r v s).mem
    rw [writeReg_mem]
    exact hs
  | sponge i => exact hs
  | storage a =>
    obtain ⟨-, ha, hl⟩ := target?_eq_some h
    have := locOf?_storage hl
    exact hs.memWrite (.inr ⟨by omega, by rw [length_le64]⟩)

theorem served_wordsWhole {act : PortAction} {s t : State} (h : Served act s t) (hs : WordsWhole s.mem) :
    WordsWhole t.mem := by
  cases h with
  | reset => exact wordsWhole_reset
  | read => exact hs
  | error => exact hs
  | illegalDropped => exact hs
  | illegal => exact hs
  | started => exact hs
  | executed i t h => exact exec_wordsWhole h hs
  | stored addr bytes v l h =>
    rw [respond_mem]
    exact hostWrite_wordsWhole v h hs

@[simp] theorem hazRead_mem (s : State) : (hazRead s).mem = s.mem := by simp [hazRead]

@[simp] theorem hazWrite_mem (s : State) : (hazWrite s).mem = s.mem := by simp [hazWrite]

/-- Settles O59: every write of a step ends below M or covers whole words of it. -/
theorem stepKeepsInvWords : Obligations.StepKeepsInvWords := by
  intro s t hs h
  have hs : WordsWhole s.mem := hs
  change WordsWhole t.mem
  cases step_move h with
  | wait => exact hs
  | idle e rest t hr hp h => exact served_wordsWhole h hs
  | finish i t hr h => exact exec_wordsWhole h hs
  | busy i e rest t hr hp he h =>
    cases h with
    | reset => exact wordsWhole_reset
    | answered => exact hs
    | hazRead => rw [hazRead_mem]; exact hs
    | hazWrite => rw [hazWrite_mem]; exact hs

/-! ### The hidden fields at rest, a running command an accepted one (R19, R21, R61) -/

/-- The hidden fields are at rest and nothing runs. -/
def Quiet (s : State) : Prop := s.seq = SeqPos.rest ∧ s.running = none

theorem Quiet.invControl {s : State} (h : Quiet s) : InvControl s :=
  ⟨h.1, fun i hi => by rw [h.2] at hi; cases hi⟩

theorem quiet_reset (s : State) : Quiet (resetState s) := ⟨rfl, rfl⟩

theorem exec_quiet {i : Instr} {s t : State} (h : exec i s = .next t) (hs : Quiet s) : Quiet t := by
  cases exec_ending h with
  | dropped => exact hs
  | refused => exact hs
  | completed => exact ⟨rfl, rfl⟩
  | cleared => exact hs
  | reset => exact quiet_reset s

/-- The checks of the command pass. -/
def accepted (p : Params) (i : Instr) (s : State) : Bool :=
  match planOf p i s with
  | .ok _ => true
  | .error _ => false

theorem starts_eq (p : Params) (i : Instr) (s : State) :
    starts p i s = (!busy s && !s.err.isSome && !runsAtOnce i && accepted p i s) := by
  unfold starts accepted
  cases planOf p i s <;> rfl

/-- The checks of a command look neither at the host's side nor at `DONE` and `BUSY` (R44). -/
theorem accepted_withHostSide {p : Params} {i : Instr} (hi : runsAtOnce i = false) (h : HostSide) (d : Bool)
    (r : Option Instr) (s : State) :
    accepted p i (withHostSide h { s with done := d, running := r }) = accepted p i s := by
  unfold accepted
  rw [planOf_withHostSide hi]
  rcases planOf p i s with e | (f | t) <;> rfl

/-- The host's side of a state. -/
def hostSide (s : State) : HostSide := ⟨s.haz, s.resp, s.port, s.freeCount, s.offProtocol⟩

/-- A command that could start on a state can start on any that differs in the host's side, `DONE` and `BUSY`. -/
theorem starts_withHostSide {p : Params} {i : Instr} {s : State} (h : HostSide) (d : Bool) {r : Option Instr}
    (hs : starts p i { s with running := r } = true) :
    starts p i (withHostSide h { s with done := d, running := none }) = true := by
  rw [starts_eq] at hs ⊢
  simp only [Bool.and_eq_true, Bool.not_eq_true'] at hs ⊢
  obtain ⟨⟨⟨-, he⟩, hi⟩, ha⟩ := hs
  refine ⟨⟨⟨rfl, he⟩, hi⟩, ?_⟩
  rw [accepted_withHostSide hi]
  exact (accepted_withHostSide hi (hostSide s) s.done r s).symm.trans ha

/-- The state while a command runs, with the host's side changed. -/
theorem invControl_withHostSide {s : State} (hs : InvControl s) (h : HostSide) : InvControl (withHostSide h s) := by
  obtain ⟨hseq, hrun⟩ := hs
  refine ⟨hseq, fun i hi => ?_⟩
  obtain ⟨hd, hst⟩ := hrun i hi
  exact ⟨hd, starts_withHostSide h s.done hst⟩

theorem hazRead_eq (s : State) :
    hazRead s = withHostSide ⟨true, some (.value (Config.freeWord s.freeCount)), s.port, s.freeCount + 1, true⟩ s := by
  unfold hazRead
  rfl

theorem hazWrite_eq (s : State) : hazWrite s = withHostSide ⟨true, some .okay, s.port, s.freeCount, true⟩ s := rfl

theorem start_invControl {i : Instr} {s : State} (hs : s.seq = SeqPos.rest) (h : starts Config.params i s = true) :
    InvControl (start i s) := by
  refine ⟨hs, fun j hj => ⟨rfl, ?_⟩⟩
  cases hj
  exact starts_withHostSide (s := s) (r := s.running) (hostSide s) false h

theorem hostWrite_quiet (l : Loc) (v : Word) {s : State} (hs : Quiet s) : Quiet (hostWrite l v s) := by
  cases l with
  | reg r => cases r <;> exact hs
  | sponge i => exact hs
  | storage a => exact hs

theorem served_invControl {act : PortAction} {s t : State} (h : Served act s t) (hs : Quiet s) : InvControl t := by
  cases h with
  | reset => exact (quiet_reset s).invControl
  | read => exact Quiet.invControl hs
  | error => exact Quiet.invControl hs
  | illegalDropped => exact Quiet.invControl hs
  | illegal => exact Quiet.invControl hs
  | started i h => exact start_invControl hs.1 h
  | executed i t h => exact (exec_quiet h hs).invControl
  | stored addr bytes v l h =>
    have hq : Quiet (hostWrite l v s) := hostWrite_quiet l v hs
    exact Quiet.invControl hq

theorem servedBusy_invControl {act : PortAction} {s t : State} (h : ServedBusy act s t) (hs : InvControl s) :
    InvControl t := by
  cases h with
  | reset => exact (quiet_reset s).invControl
  | answered r => exact invControl_withHostSide hs { hostSide s with resp := some r }
  | hazRead => rw [hazRead_eq]; exact invControl_withHostSide hs _
  | hazWrite => rw [hazWrite_eq]; exact invControl_withHostSide hs _

/-- Settles O58: a step leaves nothing running, or a command that has just started, or one that was running, on a state
that differs from the one it was accepted on in what its checks do not look at. -/
theorem stepKeepsInvControl : Obligations.StepKeepsInvControl := by
  intro s t hs h
  cases step_move h with
  | wait => exact hs
  | idle e rest t hr hp h => exact served_invControl h ⟨hs.1, hr⟩
  | finish i t hr h => exact (exec_quiet h ⟨hs.1, rfl⟩).invControl
  | busy i e rest t hr hp he h =>
    exact servedBusy_invControl h (invControl_withHostSide hs { hostSide s with port := rest })

/-! ### The state after reset -/

/-- Settles O60: nothing is stored and nothing runs. -/
theorem resetMeetsTheInvariants : Obligations.ResetMeetsTheInvariants :=
  ⟨⟨reset_mem_wf, nofun, Nat.zero_le _⟩, Quiet.invControl ⟨rfl, rfl⟩, wordsWhole_reset⟩

/-! ### Acceptance and completion -/

/-- Settles O11: a command that is looked at ends refused or completed. -/
theorem lookedAtCommandEndsDone : Obligations.LookedAtCommandEndsDone := by
  intro i s t hr hi h
  obtain ⟨hrun, herr⟩ := hr
  cases exec_ending h with
  | dropped hd => simp [busy, hrun, herr] at hd
  | refused => exact ⟨rfl, hrun, rfl⟩
  | completed t hat _ hp =>
    obtain ⟨-, -, hhaz, -⟩ := written_control i s t
    exact ⟨rfl, rfl, (completed_field hat hp State.haz).trans hhaz⟩
  | cleared hc => exact absurd (.inl hc) hi
  | reset hc => exact absurd (.inr hc) hi

/-! ### Accesses while a command runs (R44) -/

theorem exec_offProtocol {i : Instr} {s t : State} (h : exec i s = .next t) : t.offProtocol = s.offProtocol := by
  cases exec_ending h with
  | completed t hat _ hp =>
    obtain ⟨-, -, -, -, -, -, -, hoff⟩ := written_control i s t
    exact (completed_field hat hp State.offProtocol).trans hoff
  | _ => rfl

theorem served_offProtocol {act : PortAction} {s t : State} (h : Served act s t) : t.offProtocol = s.offProtocol := by
  cases h with
  | executed i t h => exact (exec_offProtocol h).trans rfl
  | stored addr bytes v l h =>
    cases l with
    | reg r => cases r <;> rfl
    | _ => rfl
  | _ => rfl

/-- A step keeps the mark, or it is the step of an access that sets `HAZ` while a command runs. -/
theorem step_offProtocol {s t : State} (h : step s = .next t) :
    t.offProtocol = s.offProtocol ∨ (t.offProtocol = true ∧ s.running ≠ none ∧
      ∃ (addr : Addr) (v : Word) (rest : List PortEvent), Mapped addr.toNat ∧ addr.toNat % 8 = 0 ∧
        ((s.port = ⟨true, .read addr 8⟩ :: rest ∧ addr ≠ 8) ∨ s.port = ⟨true, .write addr 8 v⟩ :: rest)) := by
  cases step_move h with
  | wait => exact .inl rfl
  | idle e rest t hr hp h => exact .inl ((served_offProtocol h).trans rfl)
  | finish i t hr h => exact .inl ((exec_offProtocol h).trans rfl)
  | busy i e rest t hr hp he h =>
    obtain ⟨early, act⟩ := e
    cases he
    have hrun : s.running ≠ none := by rw [hr]; nofun
    cases h with
    | reset => exact .inl rfl
    | answered => exact .inl rfl
    | hazRead addr hact ha hm hne => cases hact; exact .inr ⟨rfl, hrun, addr, 0, rest, hm, ha, .inl ⟨hp, hne⟩⟩
    | hazWrite addr v hact ha hm => cases hact; exact .inr ⟨rfl, hrun, addr, v, rest, hm, ha, .inr hp⟩

/-- The step of an early action while a command runs. -/
theorem step_busy {s : State} {i : Instr} {act : PortAction} {rest : List PortEvent} (hr : s.running = some i)
    (hp : s.port = ⟨true, act⟩ :: rest) :
    step s = .next (actBusy Config.params act { s with port := rest }) := by
  unfold step
  rw [hr, hp]
  rfl

/-- The port is no part of `STATUS` (R21). -/
theorem statusWord_port (s : State) (rest : List PortEvent) : statusWord { s with port := rest } = statusWord s := rfl

theorem actBusy_read_status (s : State) :
    actBusy Config.params (.read 8 8) s = { s with resp := some (.value (statusWord s)) } := rfl

theorem actBusy_read {addr : Addr} {s : State} (ha : addr.toNat % 8 = 0) (hm : Mapped addr.toNat) (hne : addr ≠ 8) :
    actBusy Config.params (.read addr 8) s =
      { s with resp := some (.value (Config.freeWord s.freeCount)), haz := true, freeCount := s.freeCount + 1,
               offProtocol := true } := by
  obtain ⟨l, hl⟩ := target?_of_mapped ha hm
  have hns : l ≠ .reg .status := by
    rintro rfl
    rw [target?_aligned ha] at hl
    exact hne (addr_eq_eight.1 (locOf?_status.1 hl))
  unfold actBusy
  dsimp only
  rw [hl]
  split
  next h => exact absurd (Option.some.inj h) hns
  next => rfl
  next h => cases h

theorem actBusy_write {addr : Addr} {v : Word} {s : State} (ha : addr.toNat % 8 = 0) (hm : Mapped addr.toNat) :
    actBusy Config.params (.write addr 8 v) s = { s with resp := some .okay, haz := true, offProtocol := true } := by
  obtain ⟨l, hl⟩ := target?_of_mapped ha hm
  unfold actBusy
  dsimp only
  rw [hl]
  rfl

/-- Settles O8: what an access does while a command runs, and that the mark comes from such an access only. -/
theorem busyAccessOnlySetsHazard : Obligations.BusyAccessOnlySetsHazard := by
  refine ⟨fun s i addr v rest hr hm ha => ⟨fun hp => ?_, fun hp hne => ?_, fun hp => ?_⟩, fun s t h => ?_⟩
  · rw [step_busy hr hp, actBusy_read_status, statusWord_port]
  · rw [step_busy hr hp, actBusy_read ha hm hne]
    exact ⟨_, _, rfl⟩
  · rw [step_busy hr hp, actBusy_write ha hm]
  · rcases step_offProtocol h with he | ⟨ht, hrun, hacc⟩
    · rw [he]
      exact ⟨id, .inl⟩
    · exact ⟨fun _ => ht, fun _ => .inr ⟨hrun, hacc⟩⟩

end Sys2Proof.Proofs
end

section
/-! `STATUS`, the values after reset and host reads (R21, R30, R38). -/

namespace Sys2Proof.Proofs

open Sys2Proof.Machine Sys2Proof.Claims

/-! ### `STATUS` bit by bit (R21, R127) -/

/-- The value of `STATUS` as a number: the error code above the eight low bits. -/
def statusNat (s : State) : Nat :=
  2 ^ 8 * (errField s.err).toNat + ((busy s).toNat + 2 * s.done.toNat + 4 * s.haz.toNat)

theorem lowBits_lt (s : State) : (busy s).toNat + 2 * s.done.toNat + 4 * s.haz.toNat < 8 := by
  have := Bool.toNat_le (busy s)
  have := Bool.toNat_le s.done
  have := Bool.toNat_le s.haz
  omega

theorem statusWord_eq (s : State) : statusWord s = BitVec.ofNat 64 (statusNat s) := by
  unfold statusWord statusNat
  congr 1
  omega

theorem statusNat_lt (s : State) : statusNat s < 2 ^ 16 := by
  have := lowBits_lt s
  have := (errField s.err).isLt
  unfold statusNat
  omega

/-- Bits 7:0 are the flags, the bits above them the error code. -/
theorem statusNat_testBit (s : State) (j : Nat) :
    (statusNat s).testBit j =
      if j < 8 then ((busy s).toNat + 2 * s.done.toNat + 4 * s.haz.toNat).testBit j
      else (errField s.err).toNat.testBit (j - 8) :=
  Nat.testBit_two_pow_mul_add _ ((lowBits_lt s).trans (by decide)) _

theorem statusWord_getLsbD (s : State) (j : Nat) : (statusWord s).getLsbD j = (statusNat s).testBit j := by
  rw [statusWord_eq, BitVec.getLsbD_ofNat]
  by_cases h : j < 64
  · simp [h]
  · rw [Nat.testBit_lt_two_pow ((statusNat_lt s).trans (Nat.pow_lt_pow_right (by decide) (by omega : 16 < j)))]
    simp

/-- Three flags as a number, bit by bit. -/
theorem flags_testBit (a b c : Bool) :
    (a.toNat + 2 * b.toNat + 4 * c.toNat).testBit 0 = a ∧ (a.toNat + 2 * b.toNat + 4 * c.toNat).testBit 1 = b ∧
      (a.toNat + 2 * b.toNat + 4 * c.toNat).testBit 2 = c := by
  cases a <;> cases b <;> cases c <;> decide

theorem statusWord_code (s : State) : (statusWord s).extractLsb' 8 8 = errField s.err := by
  refine BitVec.eq_of_getLsbD_eq fun j hj => ?_
  rw [BitVec.getLsbD_extractLsb', statusWord_getLsbD, statusNat_testBit, if_neg (by omega),
    show 8 + j - 8 = j by omega]
  simp only [hj, decide_true, Bool.true_and]
  rfl

/-- Settles O13: `STATUS` is the number `statusNat`, read bit by bit. -/
theorem statusFieldsReadAsR21Says : Obligations.StatusFieldsReadAsR21Says := by
  intro s
  obtain ⟨hbusy, hdone, hhaz⟩ := flags_testBit (busy s) s.done s.haz
  refine ⟨?_, ?_, ?_, ?_, fun j hj => ?_⟩
  · rw [statusWord_getLsbD, statusNat_testBit, if_pos (by decide)]; exact hbusy
  · rw [statusWord_getLsbD, statusNat_testBit, if_pos (by decide)]; exact hdone
  · rw [statusWord_getLsbD, statusNat_testBit, if_pos (by decide)]; exact hhaz
  · rw [statusWord_code]
    cases s.err with
    | none => rfl
    | some e => cases e <;> rfl
  · rw [statusWord_getLsbD]
    rcases hj with ⟨h3, h8⟩ | h16
    · rw [statusNat_testBit, if_pos h8]
      have hpow : 2 ^ 3 ≤ 2 ^ j := Nat.pow_le_pow_right (by decide) h3
      exact Nat.testBit_lt_two_pow ((lowBits_lt s).trans_le hpow)
    · exact Nat.testBit_lt_two_pow ((statusNat_lt s).trans_le (Nat.pow_le_pow_right (by decide) h16))

/-! ### Reset (R30) -/

/-- With `NROWS = 0` the first check of `DERIVE` fails. -/
theorem planDerive_reset (p : Params) : planDerive p State.reset = .error .param := by
  rw [planDerive_eq]
  rfl

/-- Settles O21: `S` is the initial state word by word, the rest is the reset state as written, and the first check of
`DERIVE` fails on it. -/
theorem resetValues : Obligations.ResetValues := by
  refine ⟨fun i => getElem_initWords Config.params.iv i.val i.isLt, rfl, rfl, rfl, rfl, rfl, rfl, rfl, rfl, rfl, rfl,
    rfl, rfl, rfl, rfl, rfl, rfl, rfl, rfl, rfl, rfl, rfl, rfl, rfl, fun a => rfl, fun k => ?_, ?_⟩
  · exact Vector.getElem_replicate k.isLt
  · change issue (planDerive Config.params) State.reset = _
    rw [issue_ready rfl rfl, planDerive_reset]
    rfl

/-! ### Host reads (R38) -/

theorem byteOf_eq_wordByte (v : Word) (i : Nat) : byteOf v i = wordByte v i := by
  refine BitVec.eq_of_toNat_eq ?_
  rw [byteOf, wordByte, BitVec.toNat_ofNat, BitVec.extractLsb'_toNat, Nat.shiftRight_eq_div_pow,
    show (256 : Nat) = 2 ^ 8 from rfl, ← Nat.pow_mul]

/-- A host read returns the bytes held, in their places. -/
theorem wordByte_hostWord {m : Memory} {a i : Nat} {free : Word} {b : Byte} (hi : i < 8)
    (hb : memGet? m (a + i) = some b) : wordByte (hostWord m a free) i = b := by
  have hbyte : hostByte m a free i = b := by
    unfold hostByte
    rw [hb]
  have hget := getElem?_le64 (hostWord m a free) hi
  rw [byteOf_eq_wordByte, hostWord, le64_wordLE rfl] at hget
  rw [← hbyte, hostWord]
  refine Option.some.inj (hget.symm.trans ?_)
  match i, hi with
  | 0, _ | 1, _ | 2, _ | 3, _ | 4, _ | 5, _ | 6, _ | 7, _ => rfl

/-- The registers in the order of the address map, with their values. -/
theorem registerValue_eq (s : State) (a : Nat) :
    registerValue s a = (regMap.lookup a).map fun r => readReg r s := by
  have hmap : ∀ l : List (Nat × HostReg),
      (l.map fun x => (x.1, readReg x.2 s)).lookup a = (l.lookup a).map fun r => readReg r s := by
    intro l
    induction l with
    | nil => rfl
    | cons x l ih =>
      rw [List.map_cons, List.lookup_cons, List.lookup_cons, ih]
      split <;> rfl
  exact hmap regMap

theorem hostRead_register {p : Params} {addr : Addr} {s : State} {x : Word}
    (h : registerValue s addr.toNat = some x) : hostRead p addr 8 s = respond (.value x) s := by
  rw [registerValue_eq, Option.map_eq_some_iff] at h
  obtain ⟨r, hr, rfl⟩ := h
  have hall : ∀ x ∈ regMap, x.1 % 8 = 0 := by decide
  unfold hostRead
  rw [target?_aligned (hall _ (mem_of_lookup_regMap hr)), locOf?_reg hr]

theorem hostRead_sponge {p : Params} {addr : Addr} {s : State} {i : Fin 16} (h : addr.toNat = 0x100 + 8 * i.val) :
    hostRead p addr 8 s = respond (.value s.S[i]) s := by
  unfold hostRead
  rw [target?_aligned (by omega)]
  rcases locOf?_of_ge (p := p) (a := addr.toNat) (by omega) with ⟨j, hj, -, -, hl⟩ | ⟨hn, -⟩
  · have : j = i := Fin.ext (by omega)
    rw [hl, this]
  · omega

theorem hostRead_storage {addr : Addr} {s : State} (ha : addr.toNat % 8 = 0) (h : Storage addr.toNat) :
    hostRead Config.params addr 8 s =
      respond (.value (hostWord s.mem addr.toNat (Config.freeWord s.freeCount)))
        (if wordHeld s.mem addr.toNat then s else drawFree s) := by
  obtain ⟨hm, hge⟩ := h
  have hsome := (locOf?_isSome_iff ha).2 hm
  unfold hostRead
  rw [target?_aligned ha]
  rcases locOf?_of_ge (p := Config.params) (a := addr.toNat) (by omega) with ⟨j, -, -, hlt, -⟩ | ⟨-, hl⟩
  · omega
  · rw [hl] at hsome ⊢
    cases hb : memMapped Config.params addr.toNat
    · rw [hb] at hsome; cases hsome
    · rfl

/-- The step of a host read while no command runs. -/
theorem step_read {s : State} {e : Bool} {addr : Addr} {bytes : Nat} {rest : List PortEvent} (hr : s.running = none)
    (hp : s.port = ⟨e, .read addr bytes⟩ :: rest) :
    step s = .next (hostRead Config.params addr bytes { s with port := rest }) := by
  unfold step
  rw [hr, hp]
  rfl

/-- The response of a host read, and whatever else it is known to leave. -/
theorem resp_of_eq_respond {s t u : State} {r r' : Response} {n : Nat}
    (h : t = { s with resp := some r, freeCount := n }) (h' : t = respond r' u) : r = r' := by
  have := congrArg State.resp (h.symm.trans h')
  exact Option.some.inj this

/-- Settles O53: `hostRead` changes two fields only, and answers by the kind of location. -/
theorem hostReadsHaveNoSideEffect : Obligations.HostReadsHaveNoSideEffect := by
  intro s e addr bytes rest hr hp
  obtain ⟨r, n, he⟩ := hostRead_eq Config.params addr bytes { s with port := rest }
  refine ⟨r, n, by rw [step_read hr hp, he], ?_, ?_, ?_⟩
  · rintro rfl x hx
    exact resp_of_eq_respond he (hostRead_register hx)
  · rintro rfl i hi
    exact resp_of_eq_respond he (hostRead_sponge hi)
  · rintro rfl ha hs
    exact ⟨_, resp_of_eq_respond he (hostRead_storage ha hs), fun i b hi hb => wordByte_hostWord hi hb⟩

end Sys2Proof.Proofs
end

section
/-! The quarter-round and the round as the claims write them, and the micro-steps of the sequencer (R71 to R77). -/

namespace Sys2Proof.Proofs

open Sys2Proof.Machine Sys2Proof.Claims

/-! ### The quarter-round word by word (R71) -/

/-- The four indices of a tuple name different words. -/
def DistinctIndices (t : QuadIndex) : Prop :=
  t.a ≠ t.b ∧ t.a ≠ t.c ∧ t.a ≠ t.d ∧ t.b ≠ t.c ∧ t.b ≠ t.d ∧ t.c ≠ t.d

theorem qtab_distinct (q : Fin 8) : DistinctIndices (qtab q) := by
  unfold DistinctIndices
  revert q
  decide

/-- `G` as the claims write it: the words of the tuple are those of `mix`, every other word is kept. -/
theorem specG_apply {t : QuadIndex} (ht : DistinctIndices t) (f : Fin 16 → Word) (i : Fin 16) :
    specG t.a t.b t.c t.d f i =
      if t.d = i then (mix ⟨f t.a, f t.b, f t.c, f t.d⟩).d else if t.c = i then (mix ⟨f t.a, f t.b, f t.c, f t.d⟩).c
      else if t.b = i then (mix ⟨f t.a, f t.b, f t.c, f t.d⟩).b
      else if t.a = i then (mix ⟨f t.a, f t.b, f t.c, f t.d⟩).a else f i := by
  have hrot : ∀ (x : Word), rotr x 32 = x.rotateRight 32 ∧ rotr x 24 = x.rotateRight 24 ∧
      rotr x 16 = x.rotateRight 16 ∧ rotr x 63 = x.rotateRight 63 := fun x =>
    ⟨rotr_eq_rotateRight x (by decide), rotr_eq_rotateRight x (by decide), rotr_eq_rotateRight x (by decide),
      rotr_eq_rotateRight x (by decide)⟩
  have ht' : t.b ≠ t.a ∧ t.c ≠ t.a ∧ t.d ≠ t.a ∧ t.c ≠ t.b ∧ t.d ≠ t.b ∧ t.d ≠ t.c := by
    obtain ⟨hab, hac, had, hbc, hbd, hcd⟩ := ht
    exact ⟨hab.symm, hac.symm, had.symm, hbc.symm, hbd.symm, hcd.symm⟩
  unfold DistinctIndices at ht
  by_cases hd : t.d = i
  · subst hd
    simp [specG, mix, hrot, ht, ht']
  by_cases hc : t.c = i
  · subst hc
    simp [specG, mix, hrot, ht, ht']
  by_cases hb : t.b = i
  · subst hb
    simp [specG, mix, hrot, ht, ht']
  by_cases ha : t.a = i
  · subst ha
    simp [specG, mix, hrot, ht, ht']
  simp [specG, Ne.symm ha, Ne.symm hb, Ne.symm hc, Ne.symm hd, ha, hb, hc, hd]

/-- A quarter-round is `G` on its tuple (R71, R72). -/
theorem words_quarterRound (q : Fin 8) (S : Vector Word 16) :
    words (quarterRound q S) = specG (qtab q).a (qtab q).b (qtab q).c (qtab q).d (words S) := by
  funext i
  rw [specG_apply (qtab_distinct q)]
  change (scatter (qtab q) (mix (gather (qtab q) S)) S)[i.val] = _
  rw [getElem_scatter]
  simp only [Fin.val_inj]
  rfl

/-- The quarter-rounds in the order of `QTAB` are those of the claims' tuples (R73). -/
theorem words_roundS (S : Vector Word 16) : words (roundS S) = specRound (words S) := by
  simp only [roundS, specRound, specTuples, List.foldl_cons, List.foldl_nil, words_quarterRound]
  rfl

theorem words_rounds (n : Nat) (S : Vector Word 16) : words (rounds n S) = specRounds n (words S) := by
  induction n generalizing S with
  | zero => rfl
  | succ n ih => rw [rounds_succ, ih, words_roundS]; rfl

/-! ### The sequencer (R77) -/

/-- The state with `S` and the sequencer's three counters set. -/
def atCounters (S : Vector Word 16) (q : BitVec 3) (r g : BitVec 4) (s : State) : State :=
  { s with S := S, seq := { s.seq with qidx := q, rnd := r, tgt := g } }

/-- A micro-step inside a round: the next quarter-round. -/
theorem seqMicroStep_inside {S : Vector Word 16} {q : BitVec 3} {r g : BitVec 4} {s : State} (hq : q + 1 ≠ 0)
    (hr : r ≠ g) :
    seqMicroStep (atCounters S q r g s) = (atCounters (quarterRound q.toFin S) (q + 1) r g s, false) := by
  unfold seqMicroStep
  simp only [atCounters, hq, hr, if_false]

/-- The last micro-step of a round that is not the last one. -/
theorem seqMicroStep_round {S : Vector Word 16} {r g : BitVec 4} {s : State} (hr : r + 1 ≠ g) :
    seqMicroStep (atCounters S 7 r g s) = (atCounters (quarterRound 7 S) 0 (r + 1) g s, false) := by
  unfold seqMicroStep
  simp only [atCounters, show (7 : BitVec 3) + 1 = 0 from rfl, if_true, hr, if_false]
  rfl

/-- The last micro-step of the last round. -/
theorem seqMicroStep_last {S : Vector Word 16} {r : BitVec 4} {s : State} :
    seqMicroStep (atCounters S 7 r (r + 1) s) = (atCounters (quarterRound 7 S) 0 0 0 s, true) := by
  unfold seqMicroStep
  simp only [atCounters, show (7 : BitVec 3) + 1 = 0 from rfl, if_true]
  rfl

theorem seqRun_continue {fuel : Nat} {s t : State} (h : seqMicroStep s = (t, false)) :
    seqRun (fuel + 1) s = seqRun fuel t := by
  simp [seqRun, h]

theorem seqRun_done {fuel : Nat} {s t : State} (h : seqMicroStep s = (t, true)) : seqRun (fuel + 1) s = t := by
  simp [seqRun, h]

/-- The first seven quarter-rounds of a round. -/
def sevenQuarters (S : Vector Word 16) : Vector Word 16 :=
  [0, 1, 2, 3, 4, 5, 6].foldl (fun S q => quarterRound q S) S

theorem quarterRound_sevenQuarters (S : Vector Word 16) : quarterRound 7 (sevenQuarters S) = roundS S := rfl

/-- The first seven micro-steps of a round. -/
theorem seqRun_seven {fuel : Nat} {S : Vector Word 16} {r g : BitVec 4} {s : State} (hr : r ≠ g) :
    seqRun (fuel + 7) (atCounters S 0 r g s) = seqRun fuel (atCounters (sevenQuarters S) 7 r g s) := by
  rw [seqRun_continue (seqMicroStep_inside (by decide) hr), seqRun_continue (seqMicroStep_inside (by decide) hr),
    seqRun_continue (seqMicroStep_inside (by decide) hr), seqRun_continue (seqMicroStep_inside (by decide) hr),
    seqRun_continue (seqMicroStep_inside (by decide) hr), seqRun_continue (seqMicroStep_inside (by decide) hr),
    seqRun_continue (seqMicroStep_inside (by decide) hr)]
  rfl

/-- The sequencer with `k + 1` rounds to go runs them and rests its counters. -/
theorem seqRun_rounds {k : Nat} {S : Vector Word 16} {r g : BitVec 4} {s : State} (h : r.toNat + (k + 1) = g.toNat) :
    seqRun (8 * (k + 1)) (atCounters S 0 r g s) = atCounters (rounds (k + 1) S) 0 0 0 s := by
  have hg := g.isLt
  have hr1 : (r + 1).toNat = r.toNat + 1 := by
    rw [BitVec.toNat_add]
    exact Nat.mod_eq_of_lt (by change r.toNat + 1 < 16; omega)
  have hne : r ≠ g := fun he => by rw [he] at h; omega
  induction k generalizing S r with
  | zero =>
    have hlast : g = r + 1 := BitVec.eq_of_toNat_eq (by omega)
    rw [show 8 * (0 + 1) = 1 + 7 from rfl, seqRun_seven hne, hlast, seqRun_done seqMicroStep_last,
      quarterRound_sevenQuarters]
    rfl
  | succ k ih =>
    have hnext : r + 1 ≠ g := fun he => by rw [← he, hr1] at h; omega
    have hr2 : (r + 1 + 1).toNat = (r + 1).toNat + 1 := by
      rw [BitVec.toNat_add (r + 1)]
      exact Nat.mod_eq_of_lt (by change (r + 1).toNat + 1 < 16; omega)
    rw [show 8 * (k + 1 + 1) = 8 * (k + 1) + 1 + 7 by omega, seqRun_seven hne,
      seqRun_continue (seqMicroStep_round hnext), quarterRound_sevenQuarters, ih (by omega) hr2 hnext]
    rfl

theorem seqTransform_eq {n : BitVec 4} (hn : n ≠ 0) (s : State) :
    seqTransform n s = atCounters (rounds n.toNat s.S) 0 0 0 s := by
  obtain ⟨k, hk⟩ : ∃ k, n.toNat = k + 1 :=
    Nat.exists_eq_succ_of_ne_zero fun h0 => hn (BitVec.eq_of_toNat_eq h0)
  have hstart : seqStart n s = atCounters s.S 0 0 n s := rfl
  rw [seqTransform, hstart, hk, seqRun_rounds (by rw [hk]; exact Nat.zero_add _)]

/-- Settles O25: eight micro-steps are a round, and the last one of the last round rests the counters. -/
theorem sequencerRunsNRounds : Obligations.SequencerRunsNRounds := by
  intro n s hn
  rw [seqTransform_eq hn]
  exact ⟨words_rounds _ _, rfl⟩

end Sys2Proof.Proofs
end

section
/-! Where a command stops: at a byte that held no value when it was issued, and for a command with one source at the
first such byte of it (R27, 93 item U1). -/

namespace Sys2Proof.Proofs

open Sys2Proof.Machine Sys2Proof.Claims

/-! ### Reads stop at the first byte without value -/

/-- The first missing byte of a range is the first missing byte of any part of it that contains it. -/
theorem firstMissing_part {m : Memory} {base n a base' n' : Nat} (h : FirstMissing m base n a) (h1 : base ≤ base')
    (h2 : base' ≤ a) (h3 : a < base' + n') : FirstMissing m base' n' a := by
  obtain ⟨-, -, hnone, hheld⟩ := h
  refine ⟨h2, h3, hnone, fun k hk => ?_⟩
  have := hheld (base' - base + k) (by omega)
  rwa [show base + (base' - base + k) = base' + k by omega] at this

/-- The part of a range before its first missing byte is held. -/
theorem firstMissing_held {m : Memory} {base n a base' n' : Nat} (h : FirstMissing m base n a) (h1 : base ≤ base')
    (h2 : base' + n' ≤ a) : Held m base' n' := by
  obtain ⟨-, -, -, hheld⟩ := h
  intro k hk
  have := hheld (base' - base + k) (by omega)
  rwa [show base + (base' - base + k) = base' + k by omega] at this

theorem readBytes_stops {m : Memory} {base n a : Nat} (h : FirstMissing m base n a) :
    readBytes m base n = .error (.noValue a) := by
  induction n generalizing base with
  | zero => obtain ⟨h1, h2, -⟩ := h; omega
  | succ n ih =>
    obtain ⟨h1, h2, hnone, hheld⟩ := id h
    rw [readBytes]
    rcases Nat.eq_or_lt_of_le h1 with rfl | hlt
    · rw [hnone]
    · obtain ⟨b, hb⟩ := Option.isSome_iff_exists.1 (hheld 0 (by omega))
      rw [Nat.add_zero] at hb
      rw [hb, ih (firstMissing_part h (Nat.le_succ _) hlt (by omega))]

theorem readWords_stops {m : Memory} {base n a : Nat} (h : FirstMissing m base (8 * n) a) :
    readWords m base n = .error (.noValue a) := by
  induction n with
  | zero => obtain ⟨h1, h2, -⟩ := h; omega
  | succ n ih =>
    obtain ⟨h1, h2, -, -⟩ := id h
    rw [readWords]
    by_cases hlt : a < base + 8 * n
    · rw [ih (firstMissing_part h (Nat.le_refl _) h1 hlt)]
    · obtain ⟨ws, hws⟩ := readWords_of_held (n := n) (firstMissing_held h (Nat.le_refl _) (by omega))
      rw [hws, readWord, readBytes_stops (firstMissing_part h (base' := base + 8 * n) (by omega) (by omega) (by omega))]

theorem readBlock_stops {m : Memory} {C row col a : Nat} (h : FirstMissing m (blockAddr C row col) 96 a) :
    readBlock m C row col = .error (.noValue a) := readWords_stops h

theorem readBlock_of_held {m : Memory} {C row col : Nat} (h : Held m (blockAddr C row col) 96) :
    ∃ x, readBlock m C row col = .ok x := readWords_of_held h

/-! ### A loop over columns that stops -/

/-- A loop over columns stops at the first column that does. -/
theorem forCols_stops {f : Nat → Work → Except Fault Work} (I : Nat → Work → Prop) {n k col : Nat} {w : Work}
    {e : Fault} (hk : k < n) (h0 : I col w)
    (hs : ∀ c v, col ≤ c → c < col + k → I c v → ∃ v', f c v = .ok v' ∧ I (c + 1) v')
    (he : ∀ v, I (col + k) v → f (col + k) v = .error e) : forCols f n col w = .error e := by
  induction k generalizing n col w with
  | zero =>
    obtain ⟨n, rfl⟩ : ∃ n', n = n' + 1 := ⟨n - 1, by omega⟩
    have he0 : f col w = .error e := he w h0
    rw [forCols_succ, he0]
    rfl
  | succ k ih =>
    obtain ⟨n, rfl⟩ : ∃ n', n = n' + 1 := ⟨n - 1, by omega⟩
    obtain ⟨v, hv, hI⟩ := hs col w (Nat.le_refl _) (by omega) h0
    rw [forCols_succ, hv]
    refine ih (by omega) hI (fun c u h1 h2 => hs c u (by omega) (by omega)) fun u hu => ?_
    have hcol : col + 1 + k = col + (k + 1) := by omega
    rw [hcol] at hu ⊢
    exact he u hu

/-- Two rows of one matrix do not overlap. -/
theorem rows_disjoint {C r r' : Nat} (h : r ≠ r') : (r + 1) * C ≤ r' * C ∨ (r' + 1) * C ≤ r * C := by
  rcases Nat.lt_or_gt_of_ne h with hlt | hlt
  · exact .inl (Nat.mul_le_mul_right C hlt)
  · exact .inr (Nat.mul_le_mul_right C hlt)

/-- The two storages agree on row `r`. -/
def SameRow (C r : Nat) (m m' : Memory) : Prop :=
  ∀ b, rowBase C r ≤ b → b < rowBase C r + 96 * C → memGet? m' b = memGet? m b

/-- A block of another row is no part of row `r`. -/
theorem SameRow.writeBlock {C r r' col : Nat} {m m' : Memory} (blk : Vector Word 12) (hr : r ≠ r') (hc : col < C)
    (h : SameRow C r m m') : SameRow C r m (writeBlock m' C r' col blk) := by
  intro b h1 h2
  refine (memGet?_memWrite_outside ?_).trans (h b h1 h2)
  rw [length_blockBytes]
  have hd := rows_disjoint (C := C) hr
  have hM : mBase = 0x10000 := rfl
  simp only [blockAddr, rowBase, Nat.add_mul, Nat.one_mul] at *
  omega

/-- Reads of a block of the row agree. -/
theorem SameRow.readBlock {C r col : Nat} {m m' : Memory} (h : SameRow C r m m') (hc : col < C) :
    readBlock m' C r col = readBlock m C r col := by
  refine readWords_congr fun k hk => h _ ?_ ?_
  · have hM : mBase = 0x10000 := rfl
    simp only [blockAddr, rowBase]
    omega
  · have hM : mBase = 0x10000 := rfl
    simp only [blockAddr, rowBase]
    omega

/-- `DuplexRow1` stops at the first byte of its input row that is missing: what it writes is another row (R92). -/
theorem duplexRow1_stops {rin rout C a : Nat} {w : Work} (hne : rin ≠ rout)
    (h : FirstMissing w.mem (rowBase C rin) (96 * C) a) : duplexRow1 rin rout C w = .error (.noValue a) := by
  obtain ⟨h1, h2, -, -⟩ := id h
  have hM : mBase = 0x10000 := rfl
  have haddr : ∀ c, blockAddr C rin c = rowBase C rin + 96 * c := fun c => by
    simp only [blockAddr, rowBase]
    omega
  refine forCols_stops (fun _ v => SameRow C rin w.mem v.mem) (k := (a - rowBase C rin) / 96) (by omega)
    (fun _ _ _ => rfl) (fun c v _ hc hv => ?_) fun v hv => ?_
  · obtain ⟨x, hx⟩ := readBlock_of_held (m := w.mem) (C := C) (row := rin) (col := c)
      (firstMissing_held h (by rw [haddr]; omega) (by rw [haddr]; omega))
    refine ⟨_, by rw [duplexRow1Step_eq, hv.readBlock (by omega), hx]; rfl, ?_⟩
    exact hv.writeBlock _ hne (by omega)
  · rw [duplexRow1Step_eq, hv.readBlock (by omega),
      readBlock_stops (firstMissing_part h (by rw [haddr]; omega) (by rw [haddr]; omega) (by rw [haddr]; omega))]
    rfl

/-! ### Commands that stop -/

/-- A command whose checks pass and whose effect stops. -/
theorem exec_stops {i : Instr} {s : State} {f : Fault} (hr : Ready s) (hi : runsAtOnce i = false)
    (h : planOf Config.params i s = .ok (.error f)) : exec i s = .fault f := by
  rw [exec_eq_issue hi, issue_ready hr.1 hr.2, h]

theorem unit?_succ (u : Fin 5) : unit? (u.val + 1) = some u := by
  have := u.isLt
  unfold unit?
  rw [dif_pos ⟨by omega, by omega⟩]
  rfl

theorem srcBuf?_of_range {src base size : Nat} (h : SrcRange src base size) :
    ∃ b : Buf, srcBuf? src = some b ∧ b.base = base ∧ b.size = size ∧ (b = .hdr ↔ src = 0) := by
  rcases h with ⟨rfl, rfl, rfl⟩ | ⟨rfl, rfl, rfl⟩ | ⟨rfl, rfl, rfl⟩
  · exact ⟨.hdr, rfl, rfl, rfl, by decide⟩
  · exact ⟨.bufA, rfl, rfl, rfl, by decide⟩
  · exact ⟨.bufB, rfl, rfl, rfl, by decide⟩

theorem srcBuf?_ne_dstBuf? {src dst : Nat} {b d : Buf} (hb : srcBuf? src = some b) (hd : dstBuf? dst = some d)
    (h : src ≠ dst) : b ≠ d := by
  rintro rfl
  unfold srcBuf? at hb
  unfold dstBuf? at hd
  split at hb <;> cases hb <;> split at hd <;> cases hd <;> exact h rfl

theorem dstBuf?_of_base {dst base : Nat} (h : DstBase dst base) : ∃ d, dstBuf? dst = some d := by
  rcases h with ⟨rfl, -⟩ | ⟨rfl, -⟩
  · exact ⟨.bufA, rfl⟩
  · exact ⟨.bufB, rfl⟩

theorem hdrLenOk_of {b : Buf} {src : Nat} {s : State} (hb : b = .hdr ↔ src = 0) (h : src = 0 → s.hdrLen = 80) :
    hdrLenOk b s = true := by
  unfold hdrLenOk
  by_cases hs : src = 0
  · simp [h hs]
  · simp [mt hb.1 hs]

theorem readBuf_stops {m : Memory} {b : Buf} {base size a : Nat} (hb : b.base = base) (hs : b.size = size)
    (h : FirstMissing m base size a) : readBuf m b = .error (.noValue a) := by
  subst hb hs
  exact readBytes_stops h

theorem checkGeom_of_geometry {s : State} (h : Geometry s) :
    firstFailing (checkGeom Config.params s.nRows s.nCols) = none := checkGeom_passes.2 h

theorem checkPad_of_padFits {s : State} (h : PadFits s) : firstFailing (checkPad Config.params s) = none :=
  checkPad_passes.2 h

theorem checkParams_of_parameters {t : Word} {s : State} (h : Parameters t s) :
    firstFailing (checkParams Config.params t s.nRows s.nCols) = none := checkParams_passes.2 h

theorem rowOk_of_lt {s : State} {r : Nat} (h : r < s.nRows.toNat) : rowOk s r = true := rowOk_iff.2 h

/-- The password is read before the salt, and neither is read past its first missing byte. -/
theorem readInputs_stops {m : Memory} {n k a : Nat} {β : Type} (f : List Byte → List Byte → Except Fault β)
    (h : FirstMissing m 0x1000 n a ∨ (Held m 0x1000 n ∧ FirstMissing m 0x2000 k a)) :
    ((readBytes m pwdBase n).bind fun pwd => (readBytes m saltBase k).bind (f pwd)) = .error (.noValue a) := by
  rcases h with h | ⟨hp, h⟩
  · rw [readBytes_stops (base := pwdBase) h]
    rfl
  · obtain ⟨pwd, hpwd⟩ := readBytes_of_held (a := pwdBase) hp
    rw [hpwd, ok_bind, readBytes_stops (base := saltBase) h]
    rfl

section
variable {s : State} {a : Nat}

theorem absf_stops {row col : Nat} (hr : Ready s) (hg : Geometry s) (h1 : row < s.nRows.toNat)
    (h2 : col < s.nCols.toNat) (h : FirstMissing s.mem (blockAddr s.nCols.toNat row col) 96 a) :
    exec (.absf row col) s = .fault (.noValue a) := by
  refine exec_stops hr rfl ((planAbsf_eq _ _ _ _).trans (checked_eq_ok.2 ⟨?_, ?_⟩))
  · rw [firstFailing_append_eq_none, firstFailing_single]
    exact ⟨checkGeom_of_geometry hg, by simp [h1, h2]⟩
  · rw [readBlock_stops h]
    rfl

theorem abss_stops {n : Nat} (hr : Ready s) (hn : n < s.nBlk.toNat) (h : FirstMissing s.mem (padBase + 64 * n) 64 a) :
    exec (.abss n) s = .fault (.noValue a) := by
  refine exec_stops hr rfl ((planAbss_eq _ _).trans (checked_eq_ok.2 ⟨?_, ?_⟩))
  · rw [firstFailing_single]
    exact decide_eq_true hn
  · rw [readSafeBlock, readWords_stops h]
    rfl

theorem hpUpdate_stops {u : Fin 5} {src base size : Nat} {fed : List Byte} (hr : Ready s)
    (hsrc : SrcRange src base size) (hlen : src = 0 → s.hdrLen = 80) (hfed : s.acc[u] = some fed)
    (h : FirstMissing s.mem base size a) : exec (.hpUpdate (u.val + 1) src) s = .fault (.noValue a) := by
  obtain ⟨b, hb, hbase, hsize, hhdr⟩ := srcBuf?_of_range hsrc
  refine exec_stops hr rfl ((planHpUpdate_eq (unit?_succ u) hb (hdrLenOk_of hhdr hlen) hfed).trans ?_)
  rw [readBuf_stops hbase hsize h]
  rfl

theorem hstage_stops {u : Fin 5} {src base size dst dbase : Nat} (hr : Ready s) (hsrc : SrcRange src base size)
    (hdst : DstBase dst dbase) (hne : src ≠ dst) (hlen : src = 0 → s.hdrLen = 80)
    (h : FirstMissing s.mem base size a) : exec (.hstage (u.val + 1) src dst) s = .fault (.noValue a) := by
  obtain ⟨b, hb, hbase, hsize, hhdr⟩ := srcBuf?_of_range hsrc
  obtain ⟨d, hd⟩ := dstBuf?_of_base hdst
  refine exec_stops hr rfl ((planHstage_eq (unit?_succ u) hb hd).trans (checked_eq_ok.2 ⟨?_, ?_⟩))
  · simp [srcBuf?_ne_dstBuf? hb hd hne, hdrLenOk_of hhdr hlen]
  · rw [hashStage_eq, readBuf_stops hbase hsize h]
    rfl

theorem pad_stops (hr : Ready s) (hp : PadFits s) (h : FirstMissing s.mem 0x1000 s.pwdLen.toNat a ∨
    (Held s.mem 0x1000 s.pwdLen.toNat ∧ FirstMissing s.mem 0x2000 s.saltLen.toNat a)) :
    exec .pad s = .fault (.noValue a) :=
  exec_stops hr rfl ((planPad_eq _ _).trans (checked_eq_ok.2 ⟨checkPad_of_padFits hp, readInputs_stops _ h⟩))

theorem derive_stops (hr : Ready s) (hp : PadFits s) (ht : Parameters s.timeCost s)
    (ho : s.outLen.toNat ≤ Config.params.outMax) (h : FirstMissing s.mem 0x1000 s.pwdLen.toNat a ∨
    (Held s.mem 0x1000 s.pwdLen.toNat ∧ FirstMissing s.mem 0x2000 s.saltLen.toNat a)) :
    exec .derive s = .fault (.noValue a) := by
  refine exec_stops hr rfl ((planDerive_eq _ _).trans (checked_eq_ok.2 ⟨?_, readInputs_stops _ h⟩))
  rw [firstFailing_append_eq_none, firstFailing_append_eq_none, firstFailing_single]
  exact ⟨⟨checkParams_of_parameters ht, checkPad_of_padFits hp⟩, decide_eq_true ho⟩

theorem powhash_stops (hr : Ready s) (hl : s.hdrLen = 80) (h : FirstMissing s.mem 0x180 80 a) :
    exec .powhash s = .fault (.noValue a) := by
  refine exec_stops hr rfl ((planPowhash_eq _ _).trans (checked_eq_ok.2 ⟨?_, ?_⟩))
  · rw [firstFailing_single]
    exact decide_eq_true hl
  · rw [stagesBefore, hashStages_cons, hashStage_eq, readBuf_stops (b := .hdr) rfl rfl h]
    rfl

theorem dpxrow1_stops {rin rout : Nat} (hr : Ready s) (hg : Geometry s) (h1 : rin < s.nRows.toNat)
    (h2 : rout < s.nRows.toNat) (hne : rin ≠ rout)
    (h : FirstMissing s.mem (rowBase s.nCols.toNat rin) (96 * s.nCols.toNat) a) :
    exec (.dpxrow1 rin rout) s = .fault (.noValue a) := by
  refine exec_stops hr rfl ((planDpxrow1_eq _ _ _ _).trans (checked_eq_ok.2 ⟨?_, ?_⟩))
  · rw [firstFailing_append_eq_none, firstFailing_single]
    exact ⟨checkGeom_of_geometry hg, by simp [rowOk_of_lt h1, rowOk_of_lt h2, hne]⟩
  · rw [rowEffect_eq, duplexRow1_stops (w := { S := s.S, mem := s.mem }) hne h]
    rfl

end

/-- Settles O12: a stop is that of a plan, whose footprint names the byte; and each source is read in order. -/
theorem faultNamesAnUnwrittenLocation : Obligations.FaultNamesAnUnwrittenLocation := by
  refine ⟨fun i s f h => ?_, fun s a hr => ⟨?_, ?_, ?_, ?_, ?_, ?_, ?_⟩⟩
  · obtain ⟨hi, hp⟩ := exec_eq_fault h
    exact planOf_footprint hi hp
  · exact fun row col hg h1 h2 h => absf_stops hr hg h1 h2 h
  · exact fun n hn h => abss_stops hr hn h
  · exact fun u src base size fed hsrc hlen hfed h => hpUpdate_stops hr hsrc hlen hfed h
  · exact fun u src base size dst dbase hsrc hdst hne hlen h => hstage_stops hr hsrc hdst hne hlen h
  · exact fun hp h => ⟨pad_stops hr hp h, fun ht ho => derive_stops hr hp ht ho h⟩
  · exact fun hl h => powhash_stops hr hl h
  · exact fun rin rout hg h1 h2 hne h => dpxrow1_stops hr hg h1 h2 hne h

end Sys2Proof.Proofs
end

section
/-! Setup runs whatever M held before (R96, R97): every row it reads it has built, and every row it builds is held. -/

namespace Sys2Proof.Proofs

open Sys2Proof.Machine Sys2Proof.Claims

/-! ### Blocks and rows that are held -/

theorem held_writeBlock (m : Memory) (C row col : Nat) (blk : Vector Word 12) :
    Held (writeBlock m C row col blk) (blockAddr C row col) 96 := by
  intro k hk
  rw [writeBlock, writeWords, memGet?_memWrite_inside (by rw [length_blockBytes]; exact hk)]
  rfl

/-- A block of a row that is held. -/
theorem held_block_of_row {m : Memory} {C row col : Nat} (h : Held m (rowBase C row) (96 * C)) (hc : col < C) :
    Held m (blockAddr C row col) 96 := by
  intro k hk
  have hM : mBase = 0x10000 := rfl
  have := h (96 * col + k) (by omega)
  rwa [show rowBase C row + (96 * col + k) = blockAddr C row col + k by simp only [rowBase, blockAddr]; omega] at this

/-- A row whose blocks are all held, found through a permutation `g` of its columns that is its own inverse. -/
theorem held_row_of_blocks {m : Memory} {C row : Nat} {g : Nat → Nat} (hg : ∀ c, c < C → g c < C ∧ g (g c) = c)
    (h : ∀ c, c < C → Held m (blockAddr C row (g c)) 96) : Held m (rowBase C row) (96 * C) := by
  intro k hk
  have hM : mBase = 0x10000 := rfl
  obtain ⟨hlt, hinv⟩ := hg (k / 96) (by omega)
  have := h (g (k / 96)) hlt (k % 96) (by omega)
  rw [hinv] at this
  rwa [show blockAddr C row (k / 96) + k % 96 = rowBase C row + k by simp only [rowBase, blockAddr]; omega] at this

/-- Rows `0` to `n - 1` of a matrix with `C` columns are held. -/
def RowsHeld (m : Memory) (C n : Nat) : Prop := Held m mBase (96 * (n * C))

theorem RowsHeld.row {m : Memory} {C n r : Nat} (h : RowsHeld m C n) (hr : r < n) :
    Held m (rowBase C r) (96 * C) := by
  intro k hk
  have hM : mBase = 0x10000 := rfl
  have hle := Nat.mul_le_mul_right C (show r + 1 ≤ n from hr)
  rw [Nat.add_mul, Nat.one_mul] at hle
  have := h (96 * (r * C) + k) (by omega)
  rwa [show mBase + (96 * (r * C) + k) = rowBase C r + k by simp only [rowBase]; omega] at this

theorem RowsHeld.zero (m : Memory) (C : Nat) : RowsHeld m C 0 := by
  intro k hk
  omega

theorem RowsHeld.succ {m : Memory} {C n : Nat} (h : RowsHeld m C n) (hr : Held m (rowBase C n) (96 * C)) :
    RowsHeld m C (n + 1) := by
  intro k hk
  have hM : mBase = 0x10000 := rfl
  rw [Nat.add_mul, Nat.one_mul] at hk
  by_cases hlt : k < 96 * (n * C)
  · exact h k hlt
  · have := hr (k - 96 * (n * C)) (by omega)
    rwa [show rowBase C n + (k - 96 * (n * C)) = mBase + k by simp only [rowBase]; omega] at this

/-! ### Row operations on held rows (R91 to R93) -/

/-- A loop over columns each of which answers and leaves a block of row `r` held, answers and leaves the row held. -/
theorem forCols_fills {A : Nat → Nat → Prop} {f : Nat → Work → Except Fault Work} {C r : Nat} {g : Nat → Nat} {w : Work}
    (hg : ∀ c, c < C → g c < C ∧ g (g c) = c)
    (hf : ∀ c v, c < C → Writes A w.mem v.mem →
      ∃ v', f c v = .ok v' ∧ Writes A v.mem v'.mem ∧ Held v'.mem (blockAddr C r (g c)) 96) :
    ∃ w', forCols f C 0 w = .ok w' ∧ Writes A w.mem w'.mem ∧ Held w'.mem (rowBase C r) (96 * C) := by
  obtain ⟨w', hw, hwr, hheld⟩ := forCols_induct
    (fun c v => Writes A w.mem v.mem ∧ ∀ c', c' < c → Held v.mem (blockAddr C r (g c')) 96) (n := C) (col := 0)
    ⟨Writes.refl _, fun c' hc' => absurd hc' (Nat.not_lt_zero _)⟩
    fun c v _ hc ⟨hv, hheld⟩ => by
      obtain ⟨v', hv', hvv', hnew⟩ := hf c v (by omega) hv
      refine ⟨v', hv', hv.trans hvv', fun c' hc' => ?_⟩
      rcases Nat.lt_succ_iff_lt_or_eq.1 hc' with hlt | rfl
      · exact hvv'.held (hheld c' hlt)
      · exact hnew
  exact ⟨w', hw, hwr, held_row_of_blocks hg fun c hc => hheld c (by omega)⟩

theorem mirror_involutive {C c : Nat} (h : c < C) : C - 1 - c < C ∧ C - 1 - (C - 1 - c) = c := by omega

theorem newRowCol_involutive {p : Params} {C c : Nat} (h : c < C) :
    newRowCol p C c < C ∧ newRowCol p C (newRowCol p C c) = c := by
  unfold newRowCol
  split
  · exact mirror_involutive h
  · exact ⟨h, rfl⟩

section
variable {p : Params} {R C : Nat} {w : Work}

theorem squeezeRow0_fills {rout : Nat} (hr : rout < R) :
    ∃ w', squeezeRow0 p rout C w = .ok w' ∧ Writes (MatrixBlock (R * C)) w.mem w'.mem ∧
      Held w'.mem (rowBase C rout) (96 * C) :=
  forCols_fills (fun _ => mirror_involutive) fun _ _ _ _ =>
    ⟨_, rfl, writeBlock_writes _ _ hr (by omega), held_writeBlock _ _ _ _ _⟩

theorem duplexRow1_fills {rin rout : Nat} (hr : rout < R) (hin : Held w.mem (rowBase C rin) (96 * C)) :
    ∃ w', duplexRow1 rin rout C w = .ok w' ∧ Writes (MatrixBlock (R * C)) w.mem w'.mem ∧
      Held w'.mem (rowBase C rout) (96 * C) :=
  forCols_fills (fun _ => mirror_involutive) fun c v hc hv => by
    obtain ⟨x, hx⟩ := readBlock_of_held (hv.held (held_block_of_row hin hc))
    rw [duplexRow1Step_eq, hx]
    exact ⟨_, rfl, writeBlock_writes _ _ hr (by omega), held_writeBlock _ _ _ _ _⟩

theorem duplexRowSetup_fills {prev rowa rnew : Nat} (ha : rowa < R) (hn : rnew < R)
    (hprev : Held w.mem (rowBase C prev) (96 * C)) (hrowa : Held w.mem (rowBase C rowa) (96 * C)) :
    ∃ w', duplexRowSetup p prev rowa rnew C w = .ok w' ∧ Writes (MatrixBlock (R * C)) w.mem w'.mem ∧
      Held w'.mem (rowBase C rnew) (96 * C) :=
  forCols_fills (fun _ => newRowCol_involutive) fun c v hc hv => by
    obtain ⟨x, hx⟩ := readBlock_of_held (hv.held (held_block_of_row hprev hc))
    obtain ⟨y, hy⟩ := readBlock_of_held (hv.held (held_block_of_row hrowa hc))
    rw [duplexRowSetupStep_eq, hx, ok_bind, hy, ok_bind]
    have hback := writeBlock_writes (R := R) (writeBlock v.mem C rnew (newRowCol p C c)
      (xorBlock x (rate (reducedTransform (xorInto (addBlock x y) v.S)))))
      (xorBlock y (rotatedRate (reducedTransform (xorInto (addBlock x y) v.S)))) ha hc
    exact ⟨_, rfl, (writeBlock_writes _ _ hn (newRowCol_lt hc)).trans hback, hback.held (held_writeBlock _ _ _ _ _)⟩

/-! ### Setup (R96) -/

theorem setupLoop_completes {n : Nat} {c : Sched} (hc : OnSchedule c) (hn : c.row + n ≤ R)
    (hw : RowsHeld w.mem C c.row) :
    ∃ x, setupLoop p C n c w = .ok x ∧ RowsHeld x.1.mem C (c.row + n) := by
  induction n generalizing c w with
  | zero => exact ⟨(w, c), rfl, hw⟩
  | succ n ih =>
    have hprev := hc.prev_succ
    have hrowa := hc.rowa_lt_row
    obtain ⟨v, hv, hwv, hnew⟩ := duplexRowSetup_fills (p := p) (R := R) (prev := c.prev) (rnew := c.row) (by omega)
      (by omega) (hw.row (by omega)) (hw.row hrowa)
    have hv' : RowsHeld v.mem C (schedNext c).row := by
      rw [schedNext_row]
      exact RowsHeld.succ (hwv.held hw) hnew
    obtain ⟨x, hx, hheld⟩ := ih hc.next (by rw [schedNext_row]; omega) hv'
    rw [schedNext_row] at hheld
    refine ⟨x, ?_, by rwa [show c.row + (n + 1) = c.row + 1 + n by omega]⟩
    rw [setupLoop_succ, hv, ok_bind, hx]

/-- Setup builds every row, whatever the storage held, and ends at the schedule's position after row `R - 1`. -/
theorem setupProc_completes (hR : 2 ≤ R) :
    ∃ w', setupProc p R C w = .ok (w', schedAfter (R - 2)) ∧ RowsHeld w'.mem C R ∧
      Writes (MatrixBlock (R * C)) w.mem w'.mem := by
  obtain ⟨w1, h1, -, hrow0⟩ := squeezeRow0_fills (p := p) (R := R) (C := C) (w := w) (rout := 0) (by omega)
  obtain ⟨w2, h2, hw12, hrow1⟩ := duplexRow1_fills (R := R) (rin := 0) (rout := 1) (w := w1) (by omega) hrow0
  have hrows : RowsHeld w2.mem C schedFirst.row := ((RowsHeld.zero _ _).succ (hw12.held hrow0)).succ hrow1
  obtain ⟨⟨w', c⟩, h3, hheld⟩ := setupLoop_completes (p := p) (R := R) (n := R - 2) onSchedule_first
    (by change 2 + (R - 2) ≤ R; omega) hrows
  have hall : setupProc p R C w = .ok (w', c) := by rw [setupProc_eq, h1, ok_bind, h2, ok_bind, h3]
  have hfoot := setupProc_footprint (p := p) (C := C) hR w
  rw [hall] at hfoot
  have hc : c = schedAfter (0 + (R - 2)) := setupLoop_sched (k := 0) h3
  rw [Nat.zero_add] at hc
  refine ⟨w', by rw [hall, hc], ?_, hfoot⟩
  rwa [show schedFirst.row + (R - 2) = R by change 2 + (R - 2) = R; omega] at hheld

end

/-! ### The registers after Setup (R18, R96) -/

theorem natReg_toNat (x : Word) : natReg x.toNat = x := by
  rw [natReg, BitVec.ofNat_toNat, BitVec.setWidth_eq]

theorem natReg_pred {x : Word} (h : 1 ≤ x.toNat) : natReg (x.toNat - 1) = x - 1 := by
  have hx := x.isLt
  refine BitVec.eq_of_toNat_eq ?_
  rw [natReg, BitVec.toNat_ofNat, BitVec.toNat_sub_of_le (by rw [BitVec.le_def]; exact h)]
  change (x.toNat - 1) % 2 ^ 64 = x.toNat - 1
  omega

/-- After a power of two of rows: the next row is `R`, the last one `R - 1`, row* is 0 and the window is `R`. -/
theorem schedAfter_pow {R k : Nat} (hR : 2 ≤ R) (hpow : R = 2 ^ k) :
    (schedAfter (R - 2)).row = R ∧ (schedAfter (R - 2)).prev = R - 1 ∧ (schedAfter (R - 2)).rowa = 0 ∧
      (schedAfter (R - 2)).window = R := by
  have hs := onSchedule_schedAfter (R - 2)
  have hrow : (schedAfter (R - 2)).row = R := by rw [schedAfter_row]; omega
  obtain ⟨hwin, hrowa⟩ := hs.of_row_eq_pow (hrow.trans hpow)
  have := hs.prev_succ
  exact ⟨hrow, by omega, hrowa, hwin.trans hrow⟩

theorem complete_eq_finished {s : State} (h : s.running = none) : complete s = finished s := by
  unfold complete finished
  rw [← h]

/-- A command whose checks pass and whose effect answers. -/
theorem exec_completes {i : Instr} {s t : State} (hr : Ready s) (hi : runsAtOnce i = false)
    (h : planOf Config.params i s = .ok (.ok t)) : exec i s = .next (finished t) := by
  have hrun : t.running = none := by
    obtain ⟨hrun, -⟩ := written_control i s t
    exact (completed_field hi h State.running).trans (hrun.trans hr.1)
  rw [exec_eq_issue hi, issue_ready hr.1 hr.2, h]
  exact congrArg _ (complete_eq_finished hrun)

/-- Settles O36: Setup answers whatever M held, and the schedule at a power of two gives the registers. -/
theorem setupCompletes : Obligations.SetupCompletes := by
  intro s hr hp
  have hchecks := checkParams_of_parameters hp
  obtain ⟨-, -, hpow⟩ := hp
  have hR := two_le_of_power hpow
  obtain ⟨k, -, hk⟩ := hpow
  obtain ⟨hrow, hprev, hrowa, hwin⟩ := schedAfter_pow hR hk
  obtain ⟨w, hw, hheld, hwrites⟩ := setupProc_completes (p := Config.params) (C := s.nCols.toNat)
    (w := { S := s.S, mem := s.mem }) hR
  refine ⟨w.S, w.mem, ?_, hheld, fun b hb => hwrites.memGet?_eq ?_⟩
  · have hplan : planOf Config.params .setup s =
        .ok (.ok (storeSched (schedAfter (s.nRows.toNat - 2)) (storeWork w s))) :=
      (planSetup_eq _ _).trans (checked_eq_ok.2 ⟨hchecks, by rw [hw, ok_bind]⟩)
    rw [exec_completes hr rfl hplan, schedule_eq_schedAfter]
    unfold storeSched storeWork
    rw [hrow, hprev, hrowa, hwin, natReg_toNat, natReg_pred (by omega)]
    rfl
  · rintro base len ⟨rfl, j, hj, rfl⟩
    have hM : mBase = 0x10000 := rfl
    omega

end Sys2Proof.Proofs
end

section
/-! Every step keeps the storage canonical and inside the address map, and `NBLK` within PADBUF (R37, R47, R88). -/

namespace Sys2Proof.Proofs

open Sys2Proof.Machine Sys2Proof.Claims

/-! ### Writes inside the address map -/

/-- The storage is canonical and lists addresses of the address map only. -/
def StorageMapped (m : Memory) : Prop := Memory.wf m ∧ ∀ c ∈ m, memMapped Config.params c.1 = true

/-- The `len` addresses from `base` are storage of the address map. -/
def RangeMapped (base len : Nat) : Prop := ∀ a, base ≤ a → a < base + len → memMapped Config.params a = true

theorem StorageMapped.memWrite {m : Memory} {base : Nat} {bs : List Byte} (h : RangeMapped base bs.length)
    (hm : StorageMapped m) : StorageMapped (memWrite m base bs) := by
  obtain ⟨hwf, hmap⟩ := hm
  refine ⟨memWrite_wf hwf _ _, fun c hc => ?_⟩
  rcases mem_memWrite hc with ⟨hold, -⟩ | ⟨h1, h2⟩
  · exact hmap c hold
  · exact h _ h1 h2

theorem storageMapped_reset : StorageMapped State.reset.mem := ⟨reset_mem_wf, nofun⟩

/-- Commands write inside the address map: what they write fits its buffer. -/
theorem CommandRange.mapped {base len : Nat} (h : CommandRange Config.params base len) : RangeMapped base len := by
  intro a h1 h2
  rw [memMapped_iff]
  rcases h with ⟨h, hl⟩ | ⟨h, hl⟩ | ⟨h, hl⟩ | ⟨hl, k, hk, h⟩
  · simp only [bufABase, bufBBase] at h
    omega
  · simp only [outBase] at h
    omega
  · simp only [padBase] at h
    omega
  · simp only [mBase] at h
    omega

/-- An aligned word of storage is inside the address map: every buffer is a whole number of words (R9, R37). -/
theorem alignedWord_mapped {a : Nat} (ha : a % 8 = 0) (hm : memMapped Config.params a = true) : RangeMapped a 8 := by
  intro b h1 h2
  rw [memMapped_iff] at hm ⊢
  simp only [Params.pwdMax, Params.saltMax, Params.outMax, Params.padMax] at hm ⊢
  omega

theorem locOf?_storage_mapped {p : Params} {a b : Nat} (h : locOf? p a = some (.storage b)) : memMapped p b = true := by
  obtain rfl := locOf?_storage h
  unfold locOf? at h
  split at h
  next => cases h
  next =>
    split at h
    next => cases h
    next => split at h <;> [assumption; cases h]

/-! ### What a step keeps of the storage -/

/-- What the reset storage has and every write of a command keeps, every command keeps. -/
theorem exec_preserves_storage {P : Memory → Prop} (h0 : P State.reset.mem)
    (hP : ∀ m base (bs : List Byte), CommandRange Config.params base bs.length → P m → P (memWrite m base bs))
    {i : Instr} {s t : State} (h : exec i s = .next t) (hs : P s.mem) : P t.mem := by
  by_cases hi : i = .srst
  · subst hi
    cases exec_ending h with
    | dropped => exact hs
    | reset => exact h0
    | refused e hat => cases hat
    | completed t hat => cases hat
    | cleared hc => cases hc
  · exact (exec_writes hi h).preserves hP hs

theorem exec_storageMapped {i : Instr} {s t : State} (h : exec i s = .next t) (hs : StorageMapped s.mem) :
    StorageMapped t.mem :=
  exec_preserves_storage storageMapped_reset (fun _ _ _ hb => StorageMapped.memWrite hb.mapped) h hs

theorem hostWrite_storageMapped {addr : Addr} {bytes : Nat} {l : Loc} (v : Word) {s : State}
    (h : target? Config.params addr bytes = some l) (hs : StorageMapped s.mem) :
    StorageMapped (hostWrite l v s).mem := by
  cases l with
  | reg r =>
    change StorageMapped (writeReg r v s).mem
    rw [writeReg_mem]
    exact hs
  | sponge i => exact hs
  | storage a =>
    obtain ⟨-, ha, hl⟩ := target?_eq_some h
    obtain rfl := locOf?_storage hl
    exact hs.memWrite (alignedWord_mapped ha (locOf?_storage_mapped hl))

/-! ### `NBLK` counts safe blocks that fit PADBUF (R88, R90) -/

/-- The safe blocks `NBLK` counts fit PADBUF. -/
def BlocksFit (n : Word) : Prop := 64 * n.toNat ≤ Config.params.padMax

theorem blocksFit_natReg {n : Nat} (h : 64 * n ≤ Config.params.padMax) : BlocksFit (natReg n) := by
  have hle : (natReg n).toNat ≤ n := Nat.mod_le _ _
  unfold BlocksFit
  omega

theorem deriveProc_nBlk {p : Params} {outLen : Word} {pwd salt : List Byte} {t R C : Word} {m : Memory} {d : Derived}
    (h : deriveProc p outLen pwd salt t R C m = .ok d) : d.nBlk = padBlocks pwd.length salt.length := by
  simp only [deriveProc_eq, bind_eq_ok] at h
  obtain ⟨w1, -, x2, -, x3, -, x4, -, hd⟩ := h
  cases hd
  rfl

/-- Stage 4 of the chain pads 32 bytes of password and 32 of salt to two safe blocks (R118). -/
theorem deriveStage_nBlk {p : Params} {m : Memory} {d : Derived} (h : deriveStage p m = .ok d) : d.nBlk = 2 := by
  simp only [deriveStage_eq, bind_eq_ok] at h
  obtain ⟨a, ha, d', hd', hd⟩ := h
  cases hd
  have hl : a.length = 32 := readBytes_length ha
  change d'.nBlk = 2
  rw [deriveProc_nBlk hd', hl]
  rfl

theorem planPad_blocksFit {s t : State} (h : planPad Config.params s = .ok (.ok t)) : BlocksFit t.nBlk := by
  rw [planPad_eq, checked_eq_ok, checkPad_passes] at h
  obtain ⟨⟨-, -, hfit⟩, h⟩ := h
  obtain ⟨pwd, hp, h⟩ := bind_eq_ok.1 h
  obtain ⟨salt, hs, h⟩ := bind_eq_ok.1 h
  cases h
  rw [← readBytes_length hp, ← readBytes_length hs] at hfit
  exact blocksFit_natReg hfit

theorem planDerive_blocksFit {s t : State} (h : planDerive Config.params s = .ok (.ok t)) : BlocksFit t.nBlk := by
  rw [planDerive_eq, checked_eq_ok, firstFailing_append_eq_none, firstFailing_append_eq_none, checkPad_passes] at h
  obtain ⟨⟨⟨-, -, -, hfit⟩, -⟩, h⟩ := h
  obtain ⟨pwd, hp, h⟩ := bind_eq_ok.1 h
  obtain ⟨salt, hs, h⟩ := bind_eq_ok.1 h
  obtain ⟨d, hd, h⟩ := bind_eq_ok.1 h
  cases h
  rw [← readBytes_length hp, ← readBytes_length hs, ← deriveProc_nBlk hd] at hfit
  exact blocksFit_natReg hfit

theorem planPowhash_blocksFit {s t : State} (h : planPowhash Config.params s = .ok (.ok t)) : BlocksFit t.nBlk := by
  rw [planPowhash_eq, checked_eq_ok] at h
  obtain ⟨m3, -, h⟩ := bind_eq_ok.1 h.2
  obtain ⟨d, hd, h⟩ := bind_eq_ok.1 h
  obtain ⟨m7, -, h⟩ := bind_eq_ok.1 h
  cases h
  have hfit : 64 * d.nBlk ≤ Config.params.padMax := by rw [deriveStage_nBlk hd]; exact padMax_ge _
  exact blocksFit_natReg hfit

theorem planOf_blocksFit {i : Instr} {s t : State} (hi : runsAtOnce i = false)
    (h : planOf Config.params i s = .ok (.ok t)) (hs : BlocksFit s.nBlk) : BlocksFit t.nBlk := by
  by_cases hn : i ≠ .pad ∧ i ≠ .derive ∧ i ≠ .powhash
  · rw [completed_field hi h State.nBlk, written_nBlk i s t hn]
    exact hs
  · obtain rfl | rfl | rfl : i = .pad ∨ i = .derive ∨ i = .powhash := by tauto
    · exact planPad_blocksFit h
    · exact planDerive_blocksFit h
    · exact planPowhash_blocksFit h

theorem exec_blocksFit {i : Instr} {s t : State} (h : exec i s = .next t) (hs : BlocksFit s.nBlk) :
    BlocksFit t.nBlk := by
  cases exec_ending h with
  | dropped => exact hs
  | refused => exact hs
  | completed t hat hr hp =>
    have hb : BlocksFit t.nBlk := planOf_blocksFit hat hp hs
    exact hb
  | cleared => exact hs
  | reset => exact Nat.zero_le _

theorem hostWrite_nBlk (l : Loc) (v : Word) (s : State) : (hostWrite l v s).nBlk = s.nBlk := by
  cases l with
  | reg r => cases r <;> rfl
  | sponge i => rfl
  | storage a => rfl

/-! ### The invariant -/

theorem invMemory_iff {s : State} : InvMemory s ↔ StorageMapped s.mem ∧ BlocksFit s.nBlk := and_assoc.symm

theorem invMemory_reset (s : State) : InvMemory (resetState s) :=
  invMemory_iff.2 ⟨storageMapped_reset, Nat.zero_le _⟩

theorem exec_invMemory {i : Instr} {s t : State} (h : exec i s = .next t) (hs : InvMemory s) : InvMemory t := by
  obtain ⟨hm, hn⟩ := invMemory_iff.1 hs
  exact invMemory_iff.2 ⟨exec_storageMapped h hm, exec_blocksFit h hn⟩

theorem hostWrite_invMemory {addr : Addr} {bytes : Nat} {l : Loc} (v : Word) {s : State}
    (h : target? Config.params addr bytes = some l) (hs : InvMemory s) : InvMemory (hostWrite l v s) := by
  obtain ⟨hm, hn⟩ := invMemory_iff.1 hs
  exact invMemory_iff.2 ⟨hostWrite_storageMapped v h hm, by rwa [hostWrite_nBlk]⟩

theorem served_invMemory {act : PortAction} {s t : State} (h : Served act s t) (hs : InvMemory s) : InvMemory t := by
  cases h with
  | reset => exact invMemory_reset s
  | read => exact hs
  | error => exact hs
  | illegalDropped => exact hs
  | illegal => exact hs
  | started => exact hs
  | executed i t h => exact exec_invMemory h hs
  | stored addr bytes v l h =>
    have hw : InvMemory (hostWrite l v s) := hostWrite_invMemory v h hs
    exact hw

theorem servedBusy_invMemory {act : PortAction} {s t : State} (h : ServedBusy act s t) (hs : InvMemory s) :
    InvMemory t := by
  cases h with
  | reset => exact invMemory_reset s
  | answered => exact hs
  | hazRead => rw [hazRead_eq]; exact hs
  | hazWrite => exact hs

/-- Settles O57: commands write what fits its buffer, the host writes aligned words of the address map, and the commands
that set `NBLK` have checked that its blocks fit PADBUF. -/
theorem stepKeepsInvMemory : Obligations.StepKeepsInvMemory := by
  intro s t hs h
  cases step_move h with
  | wait => exact hs
  | idle e rest t hr hp h => exact served_invMemory h hs
  | finish i t hr h => exact exec_invMemory h hs
  | busy i e rest t hr hp he h => exact servedBusy_invMemory h hs

end Sys2Proof.Proofs
end

section
/-! Host writes and bad transactions: the step of each, and what a read of the same location then returns
(R37 to R43). -/

namespace Sys2Proof.Proofs

open Sys2Proof.Machine Sys2Proof.Claims

/-! ### The step of a transaction -/

/-- The step of the outside world's next action while no command runs. -/
theorem step_idle {s : State} {e : Bool} {act : PortAction} {rest : List PortEvent} (hr : s.running = none)
    (hp : s.port = ⟨e, act⟩ :: rest) : step s = actIdle Config.params act { s with port := rest } := by
  unfold step
  rw [hr, hp]

/-- The step of a host write to a location other than `CMD` while no command runs. -/
theorem step_write {s : State} {e : Bool} {addr : Addr} {bytes : Nat} {v : Word} {l : Loc} {rest : List PortEvent}
    (hr : s.running = none) (hp : s.port = ⟨e, .write addr bytes v⟩ :: rest)
    (hl : target? Config.params addr bytes = some l) (hc : l ≠ .reg .cmd) :
    step s = .next (respond .okay (hostWrite l v { s with port := rest })) := by
  rw [step_idle hr hp]
  unfold actIdle
  dsimp only
  rw [hl]
  split
  next h => cases h
  next h => exact absurd (Option.some.inj h) hc
  next h => cases h; rfl

/-! ### Bad transactions (R41, R43) -/

/-- The transaction has another width than 64 bits, a misaligned address or an unmapped one. -/
def BadTransaction (addr : Addr) (bytes : Nat) : Prop := bytes ≠ 8 ∨ addr.toNat % 8 ≠ 0 ∨ ¬ Mapped addr.toNat

theorem BadTransaction.target? {addr : Addr} {bytes : Nat} (h : BadTransaction addr bytes) :
    target? Config.params addr bytes = none := by
  cases hl : Machine.target? Config.params addr bytes with
  | none => rfl
  | some l =>
    obtain ⟨hb, ha, hm⟩ := mapped_of_target? hl
    rcases h with h | h | h
    · exact absurd hb h
    · exact absurd ha h
    · exact absurd hm h

/-- A bad transaction ends in ERROR and changes nothing, whether a command runs or not. -/
theorem badTransaction_error {addr : Addr} {bytes : Nat} {act : PortAction} (h : BadTransaction addr bytes)
    (ha : act = .read addr bytes ∨ ∃ v, act = .write addr bytes v) (s : State) :
    actIdle Config.params act s = .next (respond .error s) ∧ actBusy Config.params act s = respond .error s := by
  rcases ha with rfl | ⟨v, rfl⟩
  · simp only [actIdle, actBusy, hostRead, h.target?, and_self]
  · simp only [actIdle, actBusy, h.target?, and_self]

/-- Settles O50: a bad transaction addresses nothing, so that no branch of the port but the one that answers ERROR is
open to it. -/
theorem badTransactionsEndInError : Obligations.BadTransactionsEndInError := by
  intro s e addr bytes v rest hbusy hbad hport
  obtain ⟨act, hact, hp⟩ : ∃ act, (act = .read addr bytes ∨ ∃ v, act = .write addr bytes v) ∧
      s.port = ⟨e, act⟩ :: rest := by
    rcases hport with hp | hp
    · exact ⟨_, .inl rfl, hp⟩
    · exact ⟨_, .inr ⟨v, rfl⟩, hp⟩
  obtain ⟨hidle, hbusy'⟩ := badTransaction_error hbad hact { s with port := rest }
  rcases Option.eq_none_or_eq_some s.running with hr | ⟨i, hr⟩
  · rw [step_idle hr hp, hidle]
    rfl
  · obtain rfl : e = true := hbusy.resolve_left (by rw [hr]; nofun)
    rw [step_busy hr hp, hbusy']
    rfl

/-! ### The locations a host writes (R37, R39, R42) -/

/-- The seven registers a host may write (R16, R17). -/
def hostRegs : List HostReg := [.outLen, .pwdLen, .saltLen, .timeCost, .nRows, .nCols, .hdrLen]

/-- A register a host may write holds what was written, whatever is pending (R39). -/
theorem readReg_writeReg {r : HostReg} (h : r ∈ hostRegs) (v : Word) (s : State) (rest : List PortEvent) :
    readReg r { respond .okay (writeReg r v s) with port := rest } = v := by
  cases r with
  | outLen | pwdLen | saltLen | timeCost | nRows | nCols | hdrLen => rfl
  | _ => exact absurd h (by decide)

/-- A write to any other register is ignored (R42). -/
theorem writeReg_readOnly {r : HostReg} (h : r ∉ hostRegs) (v : Word) (s : State) : writeReg r v s = s := by
  cases r with
  | outLen | pwdLen | saltLen | timeCost | nRows | nCols | hdrLen => exact absurd h (by decide)
  | _ => rfl

/-- A register is one a host may write exactly when its address is (R37). -/
theorem mem_hostRegs_iff {a : Nat} {r : HostReg} (h : regMap.lookup a = some r) :
    r ∈ hostRegs ↔ 0x10 ≤ a ∧ a < 0x48 := by
  have hall : ∀ x ∈ regMap, x.2 ∈ hostRegs ↔ 0x10 ≤ x.1 ∧ x.1 < 0x48 := by decide
  exact hall _ (mem_of_lookup_regMap h)

theorem lookup_regMap_cmd {a : Nat} (h : regMap.lookup a = some .cmd) : a = 0 := by
  have hall : ∀ x ∈ regMap, x.2 = .cmd → x.1 = 0 := by decide
  exact hall _ (mem_of_lookup_regMap h) rfl

theorem mem_of_lookup {β : Type} {l : List (Nat × β)} {a : Nat} {x : β} (h : l.lookup a = some x) : (a, x) ∈ l := by
  obtain ⟨l₁, l₂, rfl, -⟩ := List.lookup_eq_some_iff.1 h
  exact List.mem_append_right _ List.mem_cons_self

/-- Setting a register of the claims' table is writing the register at that address. -/
theorem withRegister_eq_some {a : Nat} {v : Word} {s x : State} (h : withRegister a v s = some x) :
    ∃ r, regMap.lookup a = some r ∧ x = writeReg r v s := by
  have hmem := mem_of_lookup h
  simp only [List.mem_cons, List.not_mem_nil, or_false, Prod.mk.injEq] at hmem
  rcases hmem with ⟨rfl, rfl⟩ | ⟨rfl, rfl⟩ | ⟨rfl, rfl⟩ | ⟨rfl, rfl⟩ | ⟨rfl, rfl⟩ | ⟨rfl, rfl⟩ | ⟨rfl, rfl⟩ <;>
    exact ⟨_, rfl, rfl⟩

theorem locOf?_sponge {p : Params} {a : Nat} {i : Fin 16} (h : a = 0x100 + 8 * i.val) :
    locOf? p a = some (.sponge i) := by
  rcases locOf?_of_ge (p := p) (a := a) (by omega) with ⟨j, hj, -, -, hl⟩ | ⟨hn, -⟩
  · rw [hl, show j = i from Fin.ext (by omega)]
  · omega

theorem locOf?_of_storage {a : Nat} (ha : a % 8 = 0) (h : Storage a) :
    locOf? Config.params a = some (.storage a) := by
  obtain ⟨hm, hge⟩ := h
  have hsome := (locOf?_isSome_iff ha).2 hm
  rcases locOf?_of_ge (p := Config.params) (a := a) (by omega) with ⟨j, -, -, hlt, -⟩ | ⟨-, hl⟩
  · omega
  · rw [hl] at hsome ⊢
    split at hsome
    next hb => exact if_pos hb
    next => cases hsome

/-- What a writable location is. -/
inductive WritableLoc (a : Nat) : Loc → Prop
  /-- A register a host may write. -/
  | reg (r : HostReg) (hr : regMap.lookup a = some r) (hw : r ∈ hostRegs) : WritableLoc a (.reg r)
  /-- A word of `S`. -/
  | sponge (i : Fin 16) (h : a = 0x100 + 8 * i.val) : WritableLoc a (.sponge i)
  /-- Eight bytes of storage. -/
  | storage (h : Storage a) : WritableLoc a (.storage a)

theorem writableLoc_of_writable {a : Nat} (ha : a % 8 = 0) (h : Writable a) :
    ∃ l, locOf? Config.params a = some l ∧ WritableLoc a l := by
  obtain ⟨hm, hlow, hro⟩ := h
  by_cases hreg : a < 0x88
  · obtain ⟨r, hr⟩ := lookup_regMap_isSome ha hreg
    exact ⟨_, locOf?_reg hr, .reg r hr ((mem_hostRegs_iff hr).2 (by omega))⟩
  · by_cases hS : a < 0x180
    · have hge : 0x100 ≤ a := by unfold Mapped at hm; omega
      have hi : a = 0x100 + 8 * ((⟨(a - 0x100) / 8, by omega⟩ : Fin 16) : Nat) := by
        change a = 0x100 + 8 * ((a - 0x100) / 8)
        omega
      exact ⟨_, locOf?_sponge hi, .sponge _ hi⟩
    · have hst : Storage a := ⟨hm, by omega⟩
      exact ⟨_, locOf?_of_storage ha hst, .storage hst⟩

theorem WritableLoc.ne_cmd {a : Nat} {l : Loc} (h : WritableLoc a l) : l ≠ .reg .cmd := by
  rintro rfl
  cases h with
  | reg r hr hw => exact absurd hw (by decide)

/-- Byte `i` of a word written to storage (R39, R40). -/
theorem memGet?_memWrite_word (m : Memory) (a : Nat) (v : Word) {i : Nat} (hi : i < 8) :
    memGet? (memWrite m a (le64 v)) (a + i) = some (byteOf v i) := by
  have hlen : i < (le64 v).length := hi
  rw [memGet?_memWrite_inside hlen, ← List.getElem?_eq_getElem hlen, getElem?_le64 v hi]

/-- A word of storage that was written whole reads back, whatever the free value is (R38 to R40). -/
theorem hostWord_memWrite (m : Memory) (a : Nat) (v free : Word) : hostWord (memWrite m a (le64 v)) a free = v := by
  refine word_eq_of_bytes fun i hi => ?_
  rw [byteOf_eq_wordByte]
  exact wordByte_hostWord hi (memGet?_memWrite_word m a v hi)

/-- The port and the response do not matter to a host write, nor it to them. -/
theorem writeReg_hostSide (r : HostReg) (v : Word) (s : State) (port : List PortEvent) :
    respond .okay (writeReg r v { s with port := port }) =
      { writeReg r v s with port := port, resp := some .okay } := by
  cases r <;> rfl

theorem hostWrite_running (l : Loc) (v : Word) (s : State) : (hostWrite l v s).running = s.running := by
  cases l with
  | reg r => cases r <;> rfl
  | sponge i => rfl
  | storage a => rfl

theorem hostWrite_port (l : Loc) (v : Word) (s : State) : (hostWrite l v s).port = s.port := by
  cases l with
  | reg r => cases r <;> rfl
  | sponge i => rfl
  | storage a => rfl

/-- A read returns what was written to a writable location just before (R38, R39). -/
theorem hostRead_hostWrite {addr : Addr} {l : Loc} (hl : target? Config.params addr 8 = some l)
    (hw : WritableLoc addr.toNat l) (v : Word) (s : State) (rest : List PortEvent) :
    (hostRead Config.params addr 8 { respond .okay (hostWrite l v s) with port := rest }).resp =
      some (.value v) := by
  unfold hostRead
  rw [hl]
  cases hw with
  | reg r hr hm => exact congrArg (fun x => some (Response.value x)) (readReg_writeReg hm v s rest)
  | sponge i h => exact congrArg (fun x => some (Response.value x)) (Vector.getElem_set_self i.isLt)
  | storage h => exact congrArg (fun x => some (Response.value x)) (hostWord_memWrite _ _ _ _)

/-- Settles O51: the address names a writable location, its write sets that location alone, and a read of it finds the
value. -/
theorem hostReadsWhatItWrote : Obligations.HostReadsWhatItWrote := by
  intro s e e' addr v rest hr ha hw hp
  obtain ⟨l, hloc, hwl⟩ := writableLoc_of_writable ha hw
  have hl : target? Config.params addr 8 = some l := (target?_aligned ha).trans hloc
  refine ⟨_, _, step_write hr hp hl hwl.ne_cmd, rfl,
    step_read (rest := rest) ((hostWrite_running _ _ _).trans hr) (hostWrite_port _ _ _),
    hostRead_hostWrite hl hwl v _ rest, fun x hx => ?_, fun i hi => ?_⟩
  · obtain ⟨r, hreg, rfl⟩ := withRegister_eq_some hx
    obtain rfl : l = .reg r := Option.some.inj (hloc.symm.trans (locOf?_reg hreg))
    exact writeReg_hostSide r v s _
  · obtain rfl : l = .sponge i := Option.some.inj (hloc.symm.trans (locOf?_sponge hi))
    rfl

/-- Settles O52: a write to storage is a `memWrite` of the word's eight bytes. -/
theorem hostWritesAreLittleEndian : Obligations.HostWritesAreLittleEndian := by
  intro s e addr v rest hr ha hs hp
  have hl : target? Config.params addr 8 = some (.storage addr.toNat) :=
    (target?_aligned ha).trans (locOf?_of_storage ha hs)
  refine ⟨memWrite s.mem addr.toNat (le64 v), step_write hr hp hl nofun, fun i hi => ?_,
    fun b hb => memGet?_memWrite_outside hb⟩
  rw [← byteOf_eq_wordByte]
  exact memGet?_memWrite_word _ _ _ hi

/-! ### Registers a host cannot write (R42) -/

/-- Settles O54: the write of a read-only register is the write that changes nothing, and `CMD` holds 0 for a read. -/
theorem readOnlyRegistersIgnoreWrites : Obligations.ReadOnlyRegistersIgnoreWrites := by
  intro s e addr v rest hr
  refine ⟨fun ha hro hp => ?_, fun hp => (step_read hr hp).trans (congrArg _ (hostRead_register rfl))⟩
  have hro : addr.toNat = 8 ∨ (0x48 ≤ addr.toNat ∧ addr.toNat < 0x88) := hro.imp_left addr_eq_eight.2
  obtain ⟨r, hreg⟩ := lookup_regMap_isSome ha (by omega)
  have hl : target? Config.params addr 8 = some (.reg r) := (target?_aligned ha).trans (locOf?_reg hreg)
  have hcmd : Loc.reg r ≠ .reg .cmd := by
    rintro ⟨⟩
    have := lookup_regMap_cmd hreg
    omega
  have hnot : r ∉ hostRegs := fun h => by
    have := (mem_hostRegs_iff hreg).1 h
    omega
  rw [step_write hr hp hl hcmd, hostWrite, writeReg_readOnly hnot]
  rfl

end Sys2Proof.Proofs
end

section
/-! Commands left running: how a command starts, what the early actions do to it, and that it ends as it would have
ended alone (R44, R61 to R63). -/

namespace Sys2Proof.Proofs

open Sys2Proof.Machine Sys2Proof.Claims

/-! ### Which commands start (R61, R63) -/

/-- A command that starts finds the machine ready and is neither `CLR` nor `SRST`. -/
theorem ready_of_starts {p : Params} {i : Instr} {s : State} (h : starts p i s = true) :
    Ready s ∧ runsAtOnce i = false := by
  rw [starts_eq] at h
  simp only [Bool.and_eq_true, Bool.not_eq_true'] at h
  obtain ⟨⟨⟨hb, he⟩, hi⟩, -⟩ := h
  exact ⟨⟨busy_eq_false.1 hb, by simpa using he⟩, hi⟩

/-- Whether a command starts does not depend on the host's side (R44). -/
theorem starts_hostSide {p : Params} {i : Instr} {s : State} (hr : s.running = none) (h : HostSide) :
    starts p i (withHostSide h s) = starts p i s := by
  have hself : { s with done := s.done, running := none } = s := by rw [← hr]
  rw [Bool.eq_iff_iff]
  constructor
  · intro hs
    have hback := starts_withHostSide (s := withHostSide h s) (r := s.running) (hostSide s) s.done hs
    exact (congrArg (starts p i) hself).symm.trans hback
  · intro hs
    have hthere := starts_withHostSide (s := s) (r := s.running) h s.done hs
    rwa [hself] at hthere

theorem earlyNext_of_notEarly {s : State} (h : NotEarly s.port) : earlyNext s = false := by
  unfold earlyNext
  split
  next e rest hp => exact h e (by rw [hp]; rfl)
  next => rfl

/-- The step of a `CMD` write while no command runs. -/
theorem step_cmd {s : State} {e : Bool} {v : Word} {rest : List PortEvent} (hr : s.running = none)
    (hp : s.port = ⟨e, .write 0 8 v⟩ :: rest) :
    step s = command Config.params v { s with port := rest, resp := some .okay } := by
  rw [step_idle hr hp]
  rfl

/-- Settles O5: a command is left running only if it starts and the next action is early. -/
theorem stepRunsTheDecodedCommand : Obligations.StepRunsTheDecodedCommand := by
  intro s e v rest i hr hp hwhole hdec
  have hstart : starts Config.params i { s with port := rest, resp := some .okay } = starts Config.params i s :=
    starts_hostSide hr { hostSide s with port := rest, resp := some .okay }
  have hnot : ¬ (earlyNext { s with port := rest, resp := some .okay } &&
      starts Config.params i { s with port := rest, resp := some .okay }) = true := by
    rw [hstart]
    rcases hwhole with hne | hns
    · rw [earlyNext_of_notEarly (s := { s with port := rest, resp := some .okay }) hne]
      nofun
    · rw [hns, Bool.and_false]
      nofun
  rw [step_cmd hr hp, command, hdec]
  exact if_neg hnot

/-! ### A command and the host's side of the state (R44) -/

/-- The outcome of a command that is looked at carries the host's side and does not depend on it or on `DONE`. -/
theorem exec_withHostSide {i : Instr} {s : State} (hr : Ready s) (hi : runsAtOnce i = false) (h : HostSide) (d : Bool) :
    exec i (withHostSide h { s with done := d }) = onNext (withHostSide h) (exec i s) := by
  obtain ⟨hrun, herr⟩ := hr
  have hplan := planOf_withHostSide (p := Config.params) hi h d none s
  have hself : { s with done := d, running := none } = { s with done := d } := by rw [← hrun]
  have hrun' : (withHostSide h { s with done := d }).running = none := hrun
  have herr' : (withHostSide h { s with done := d }).err = none := herr
  rw [hself] at hplan
  rw [exec_eq_issue hi, exec_eq_issue hi, issue_ready hrun herr, issue_ready hrun' herr', hplan]
  rcases planOf Config.params i s with e | (f | t) <;> rfl

/-- The completing step of a command that was left running is the command on the state it was accepted on, the host's
side aside. -/
theorem exec_of_started {i : Instr} {s : State} (hr : Ready s) (hi : runsAtOnce i = false) (h : HostSide) :
    exec i { withHostSide h (start i s) with running := none } = onNext (withHostSide h) (exec i s) := by
  have hself : { withHostSide h (start i s) with running := none } = withHostSide h { s with done := false } := by
    obtain ⟨hrun, -⟩ := hr
    change withHostSide h { s with done := false, running := none } = _
    rw [← hrun]
  rw [hself, exec_withHostSide hr hi]

/-- An action other than a reset changes the host's side only, and never takes `HAZ` away. -/
theorem actBusy_hostSide {act : PortAction} (hact : act ≠ .reset) (s : State) :
    ∃ h : HostSide, h.port = s.port ∧ (s.haz = true → h.haz = true) ∧
      actBusy Config.params act s = withHostSide h s := by
  have hserved := actBusy_served act s
  generalize actBusy Config.params act s = t at hserved ⊢
  cases hserved with
  | reset h => exact absurd h hact
  | answered r => exact ⟨{ hostSide s with resp := some r }, rfl, id, rfl⟩
  | hazRead => exact ⟨_, rfl, fun _ => rfl, hazRead_eq s⟩
  | hazWrite => exact ⟨_, rfl, fun _ => rfl, hazWrite_eq s⟩

/-! ### The steps and runs of a command that is left running -/

/-- A command that starts before an early action is left running. -/
theorem step_starts {s : State} {i : Instr} {e : Bool} {v : Word} {rest : List PortEvent} (hdec : decode v = .ok i)
    (hst : starts Config.params i s = true) (hp : s.port = ⟨e, .write 0 8 v⟩ :: rest)
    (hearly : earlyNext { s with port := rest } = true) :
    step s = .next (start i { s with port := rest, resp := some .okay }) := by
  obtain ⟨⟨hr, -⟩, -⟩ := ready_of_starts hst
  have hst' : starts Config.params i { s with port := rest, resp := some .okay } = true :=
    (starts_hostSide hr { hostSide s with port := rest, resp := some .okay }).trans hst
  have hearly' : earlyNext { s with port := rest, resp := some .okay } = true := hearly
  rw [step_cmd hr hp, command, hdec]
  exact if_pos (by rw [hearly', hst']; rfl)

/-- With no early action pending, the running command completes. -/
theorem step_finish {s : State} {i : Instr} (hr : s.running = some i) (hp : NotEarly s.port) :
    step s = exec i { s with running := none } := by
  change step s = finishRunning i s
  unfold step
  cases hport : s.port with
  | nil => rw [hr]
  | cons e rest =>
    have he : e.early = false := hp e (by rw [hport]; rfl)
    rw [hr]
    exact if_neg (by rw [he]; nofun)

theorem run_succ {s t : State} (k : Nat) (h : step s = .next t) :
    Host.Core.run core (k + 1) s = Host.Core.run core k t := by
  have h : core.step s = .next t := h
  simp only [Host.Core.run, h]

theorem run_one (s : State) : Host.Core.run core 1 s = step s := by
  change Host.Core.run core 1 s = core.step s
  simp only [Host.Core.run]
  cases core.step s <;> rfl

/-- Early actions other than a reset change the host's side of a running command's state only. -/
theorem run_early {i : Instr} {es rest : List PortEvent} {s : State} (hr : s.running = some i)
    (hp : s.port = es ++ rest) (hes : ∀ a ∈ es, a.early = true ∧ a.act ≠ .reset) :
    ∃ h : HostSide, h.port = rest ∧ (s.haz = true → h.haz = true) ∧
      ∀ k, Host.Core.run core (es.length + k) s = Host.Core.run core k (withHostSide h s) := by
  induction es generalizing s with
  | nil => exact ⟨hostSide s, hp, id, fun k => by rw [List.length_nil, Nat.zero_add]; rfl⟩
  | cons a es ih =>
    obtain ⟨early, act⟩ := a
    obtain ⟨rfl, hact⟩ : early = true ∧ act ≠ .reset := hes _ List.mem_cons_self
    obtain ⟨h₁, hport₁, hhaz₁, he₁⟩ := actBusy_hostSide hact { s with port := es ++ rest }
    obtain ⟨h₂, hport₂, hhaz₂, hrun₂⟩ := ih (s := withHostSide h₁ s) hr hport₁
      fun a ha => hes a (List.mem_cons_of_mem _ ha)
    refine ⟨h₂, hport₂, fun hz => hhaz₂ (hhaz₁ hz), fun k => ?_⟩
    have hstep : step s = .next (withHostSide h₁ s) := by rw [step_busy (rest := es ++ rest) hr hp, he₁]; rfl
    rw [List.length_cons, Nat.add_right_comm, run_succ _ hstep, hrun₂]
    rfl

/-- The event of a `STATUS` read that arrives while a command runs. -/
def statusRead : PortEvent := ⟨true, .read 8 8⟩

theorem step_statusRead {i : Instr} {rest : List PortEvent} {s : State} (hr : s.running = some i)
    (hp : s.port = statusRead :: rest) :
    step s = .next { s with port := rest, resp := some (.value (statusWord s)) } := by
  rw [step_busy hr hp, actBusy_read_status, statusWord_port]

/-- `STATUS` reads answer `STATUS` and change nothing else of a running command's state. -/
theorem run_statusReads {i : Instr} {n : Nat} {rest : List PortEvent} {s : State} (hr : s.running = some i)
    (hp : s.port = List.replicate (n + 1) statusRead ++ rest) (k : Nat) :
    Host.Core.run core (n + 1 + k) s =
      Host.Core.run core k { s with port := rest, resp := some (.value (statusWord s)) } := by
  induction n generalizing s with
  | zero => rw [Nat.add_right_comm, run_succ _ (step_statusRead hr hp), Nat.zero_add]; rfl
  | succ n ih => rw [Nat.add_right_comm, run_succ _ (step_statusRead hr hp)]; exact ih hr rfl

/-- The host's side after a `STATUS` read while the command runs, `rest` still pending. -/
def afterStatusRead (s : State) (rest : List PortEvent) : HostSide :=
  { hostSide s with port := rest, resp := some (.value (if s.haz then 5 else 1)) }

/-- `STATUS` while a command runs: `BUSY` is 1, `DONE` and `ERR` are 0 (R21, R61). -/
theorem statusWord_running {s : State} {i : Instr} (hr : s.running = some i) (hd : s.done = false)
    (he : s.err = none) : statusWord s = if s.haz then 5 else 1 := by
  unfold statusWord busy
  rw [hr, hd, he]
  cases s.haz <;> rfl

/-! ### The busy window (R44, R61 to R63) -/

section
variable {s : State} {i : Instr} {e : Bool} {v : Word} {rest : List PortEvent} (hdec : decode v = .ok i)
  (hst : starts Config.params i s = true)
include hdec hst

/-- A command that starts before `m + 1` `STATUS` reads is still running after them, each answered. -/
theorem run_statusWindow {m : Nat} (hp : s.port = ⟨e, .write 0 8 v⟩ :: (List.replicate (m + 1) statusRead ++ rest))
    (k : Nat) :
    Host.Core.run core (m + 2 + k) s =
      Host.Core.run core k (withHostSide (afterStatusRead s rest) (start i s)) := by
  obtain ⟨⟨-, herr⟩, -⟩ := ready_of_starts hst
  have hstatus := statusWord_running (i := i)
    (s := start i { s with port := List.replicate (m + 1) statusRead ++ rest, resp := some .okay }) rfl rfl herr
  rw [show m + 2 + k = m + 1 + k + 1 by omega, run_succ _ (step_starts hdec hst hp rfl), run_statusReads rfl rfl,
    hstatus]
  rfl

/-- After the reads the command ends as it would have ended alone, but for the response and what is pending. -/
theorem run_statusWindow_completes {m : Nat} (hne : NotEarly rest)
    (hp : s.port = ⟨e, .write 0 8 v⟩ :: (List.replicate (m + 1) statusRead ++ rest)) :
    Host.Core.run core (m + 3) s = exec i (withHostSide (afterStatusRead s rest) s) := by
  obtain ⟨hr, hi⟩ := ready_of_starts hst
  have hlast : step (withHostSide (afterStatusRead s rest) (start i s)) =
      exec i { withHostSide (afterStatusRead s rest) (start i s) with running := none } := step_finish rfl hne
  rw [run_statusWindow hdec hst hp 1, run_one, hlast, exec_of_started hr hi]
  exact (exec_withHostSide hr hi _ s.done).symm

/-- With any early actions but a reset the command ends as it would have ended alone, but for the host's side. -/
theorem run_earlyWindow {es : List PortEvent} (hne : NotEarly rest) (hnil : es ≠ [])
    (hes : ∀ a ∈ es, a.early = true ∧ a.act ≠ .reset) (hp : s.port = ⟨e, .write 0 8 v⟩ :: (es ++ rest)) :
    ∃ h : HostSide, h.port = rest ∧ (s.haz = true → h.haz = true) ∧
      Host.Core.run core (es.length + 2) s = onNext (withHostSide h) (exec i s) := by
  obtain ⟨hr, hi⟩ := ready_of_starts hst
  obtain ⟨h, hport, hhaz, hrun⟩ := run_early (s := start i { s with port := es ++ rest, resp := some .okay })
    rfl rfl hes
  have hearly : earlyNext { s with port := es ++ rest } = true := by
    cases es with
    | nil => exact absurd rfl hnil
    | cons a es => exact (hes a List.mem_cons_self).1
  refine ⟨h, hport, hhaz, ?_⟩
  rw [run_succ (es.length + 1) (step_starts hdec hst hp hearly), hrun 1, run_one, step_finish rfl (hport ▸ hne)]
  exact exec_of_started hr hi h

end

/-- Settles O7: accesses while a command runs change the host's side of the state only, which the command neither reads
nor changes. -/
theorem busyWindowDoesNotChangeTheResult : Obligations.BusyWindowDoesNotChangeTheResult := by
  refine ⟨fun s i e v a rest hdec hst hp ha => step_starts hdec hst hp ha, ?_,
    fun s i hr hne => step_finish hr hne,
    fun s i e v es rest hdec hst hne hnil hes hp => run_earlyWindow hdec hst hne hnil hes hp,
    fun s i h d hr hi => exec_withHostSide hr (Bool.eq_false_iff.2 (mt runsAtOnce_iff.1 hi)) h d⟩
  refine fun s i e v n rest hdec hst hne hp => ⟨fun k hk => ?_, run_statusWindow_completes hdec hst hne hp⟩
  have hsplit : List.replicate (n + 1) statusRead ++ rest =
      List.replicate (k + 1) statusRead ++ (List.replicate (n - k) statusRead ++ rest) := by
    rw [← List.append_assoc, List.replicate_append_replicate, show k + 1 + (n - k) = n + 1 by omega]
  exact run_statusWindow hdec hst (hp.trans (congrArg _ hsplit)) 0

end Sys2Proof.Proofs
end

section
/-! The command word as its opcode and its three operand bytes: both directions of the round trip between commands and
`CMD` values (R56 to R60). -/

namespace Sys2Proof.Proofs

open Sys2Proof.Laws Sys2Proof.Machine Sys2Proof.Claims

/-! ### Fields of a word (R56, R57) -/

/-- The bytes of a command word below its opcode: bits 23:16, 15:8 and 7:0. -/
structure OperandBytes where
  a : Nat
  b : Nat
  c : Nat

/-- Where a command's operands stand in its word (R57, R58). -/
def operandBytes : Instr → OperandBytes
  | .nop | .clr | .srst | .permR | .permF | .sinit | .sqz | .pad => ⟨0, 0, 0⟩
  | .setup | .wander | .derive | .powhash => ⟨0, 0, 0⟩
  | .qr q => ⟨0, 0, q.val⟩
  | .abss n => ⟨0, n / 256, n % 256⟩
  | .sqrow0 x | .hpReset x => ⟨0, 0, x⟩
  | .absf x y | .dpxrow1 x y | .hpUpdate x y | .hpDigest x y => ⟨0, x, y⟩
  | .dpxsetup x y z | .dpxwander x y z | .hstage x y z => ⟨x, y, z⟩

theorem encode_eq_packWord (i : Instr) :
    encode i = packWord (opcode i) (operandBytes i).a (operandBytes i).b (operandBytes i).c := by
  cases i <;> rfl

theorem opcode_lt (i : Instr) : opcode i < 256 := by
  cases i <;> simp [opcode]

/-- Every operand fits its field exactly when the bytes of the word are bytes. -/
theorem wf_iff_operandBytes {i : Instr} :
    i.wf = true ↔ (operandBytes i).a < 256 ∧ (operandBytes i).b < 256 ∧ (operandBytes i).c < 256 := by
  cases i with
  | nop | clr | srst | permR | permF | sinit | sqz | pad | setup | wander | derive | powhash => decide
  | qr q =>
    have hq := q.isLt
    simp only [Instr.wf, operandBytes, true_iff]
    omega
  | abss n => simp only [Instr.wf, fits16, operandBytes, decide_eq_true_eq]; omega
  | sqrow0 | hpReset => simp [Instr.wf, fits8, operandBytes]
  | absf | dpxrow1 | hpUpdate | hpDigest => simp [Instr.wf, fits8, operandBytes]
  | dpxsetup | dpxwander | hstage => simp [Instr.wf, fits8, operandBytes, and_assoc]

theorem slice_byte_lt (w : BitVec 32) (lo : Nat) : slice w (lo + 7) lo < 256 := by
  rw [slice, show lo + 7 + 1 - lo = 8 by omega]
  exact Nat.mod_lt _ (by decide)

/-- A word is packed from four bytes exactly when they are its fields. -/
theorem packWord_eq_iff {op a b c : Nat} {w : BitVec 32} (ho : op < 256) (ha : a < 256) (hb : b < 256) (hc : c < 256) :
    packWord op a b c = w ↔ op = slice w 31 24 ∧ a = slice w 23 16 ∧ b = slice w 15 8 ∧ c = slice w 7 0 := by
  have hw := w.isLt
  simp only [← BitVec.toNat_inj, packWord, slice, BitVec.toNat_ofNat, Nat.reducePow, Nat.reduceAdd, Nat.reduceSub]
  omega

/-! ### Formats (R57) -/

section
variable {a b c : Nat} {i : Instr}

theorem formatN_eq_ok {x : Instr} : formatN a b c x = .ok i ↔ (a = 0 ∧ b = 0 ∧ c = 0) ∧ x = i := by
  unfold formatN
  split <;> simp [*]

theorem formatQ_eq_ok {x : Fin 8 → Instr} :
    formatQ a b c x = .ok i ↔ (a = 0 ∧ b = 0) ∧ ∃ q, q.val = c ∧ x q = i := by
  unfold formatQ
  split
  next h =>
    obtain ⟨ha, hb, hc⟩ := h
    exact ⟨fun hi => ⟨⟨ha, hb⟩, ⟨c, hc⟩, rfl, Except.ok.inj hi⟩,
      fun ⟨_, q, hq, hi⟩ => congrArg _ ((congrArg x (Fin.ext hq.symm)).trans hi)⟩
  next h =>
    exact ⟨nofun, fun ⟨⟨ha, hb⟩, q, hq, _⟩ => absurd ⟨ha, hb, hq ▸ q.isLt⟩ h⟩

theorem formatI_eq_ok {x : Nat → Instr} : formatI a b c x = .ok i ↔ a = 0 ∧ x (256 * b + c) = i := by
  unfold formatI
  split <;> simp [*]

theorem formatA1_eq_ok {x : Nat → Instr} : formatA1 a b c x = .ok i ↔ (a = 0 ∧ b = 0) ∧ x c = i := by
  unfold formatA1
  split <;> simp [*]

theorem formatA2_eq_ok {x : Nat → Nat → Instr} : formatA2 a b c x = .ok i ↔ a = 0 ∧ x b c = i := by
  unfold formatA2
  split <;> simp [*]

theorem formatA3_eq_ok {x : Nat → Nat → Nat → Instr} : formatA3 a b c x = .ok i ↔ x a b c = i :=
  ⟨Except.ok.inj, congrArg _⟩

end

/-! ### The decoder (R58) -/

/-- The decoder answers a command only on the command's own opcode and operand bytes. The cases are the rows of the
opcode map, numbered in its order and taken format by format; the last one is the unassigned opcodes. -/
theorem fields_of_decodeFields {op a b c : Nat} {i : Instr} (hc : c < 256) (h : decodeFields op a b c = .ok i) :
    op = opcode i ∧ operandBytes i = ⟨a, b, c⟩ := by
  unfold decodeFields at h
  split at h
  case h_1 | h_2 | h_3 | h_5 | h_6 | h_7 | h_10 | h_11 | h_16 | h_17 | h_18 | h_23 =>
    obtain ⟨⟨rfl, rfl, rfl⟩, rfl⟩ := formatN_eq_ok.1 h
    exact ⟨rfl, rfl⟩
  case h_4 =>
    obtain ⟨⟨rfl, rfl⟩, q, rfl, rfl⟩ := formatQ_eq_ok.1 h
    exact ⟨rfl, rfl⟩
  case h_9 =>
    obtain ⟨rfl, rfl⟩ := formatI_eq_ok.1 h
    refine ⟨rfl, ?_⟩
    simp only [operandBytes, OperandBytes.mk.injEq, true_and]
    omega
  case h_12 | h_19 =>
    obtain ⟨⟨rfl, rfl⟩, rfl⟩ := formatA1_eq_ok.1 h
    exact ⟨rfl, rfl⟩
  case h_8 | h_13 | h_20 | h_21 =>
    obtain ⟨rfl, rfl⟩ := formatA2_eq_ok.1 h
    exact ⟨rfl, rfl⟩
  case h_14 | h_15 | h_22 =>
    obtain rfl := formatA3_eq_ok.1 h
    exact ⟨rfl, rfl⟩
  case h_24 => cases h

/-- The decoder answers every command on its opcode and operand bytes. -/
theorem decodeFields_of_instr (i : Instr) :
    decodeFields (opcode i) (operandBytes i).a (operandBytes i).b (operandBytes i).c = .ok i := by
  cases i with
  | nop | clr | srst | permR | permF | sinit | sqz | pad | setup | wander | derive | powhash =>
    exact formatN_eq_ok.2 ⟨⟨rfl, rfl, rfl⟩, rfl⟩
  | qr q => exact formatQ_eq_ok.2 ⟨⟨rfl, rfl⟩, q, rfl, rfl⟩
  | abss n => exact formatI_eq_ok.2 ⟨rfl, congrArg _ (Nat.div_add_mod n 256)⟩
  | sqrow0 | hpReset => exact formatA1_eq_ok.2 ⟨⟨rfl, rfl⟩, rfl⟩
  | absf | dpxrow1 | hpUpdate | hpDigest => exact formatA2_eq_ok.2 ⟨rfl, rfl⟩
  | dpxsetup | dpxwander | hstage => exact formatA3_eq_ok.2 rfl

/-- A 32-bit word decodes to the well-formed command that it encodes, and to no other. -/
theorem decodeWord_eq_ok {w : BitVec 32} {i : Instr} : decodeWord w = .ok i ↔ i.wf = true ∧ encode i = w := by
  rw [wf_iff_operandBytes, encode_eq_packWord]
  constructor
  · intro h
    obtain ⟨hop, hbytes⟩ := fields_of_decodeFields (slice_byte_lt w 0) h
    have ha := slice_byte_lt w 16
    have hb := slice_byte_lt w 8
    have hc := slice_byte_lt w 0
    rw [hbytes]
    exact ⟨⟨ha, hb, hc⟩, (packWord_eq_iff (opcode_lt i) ha hb hc).2 ⟨hop.symm, rfl, rfl, rfl⟩⟩
  · rintro ⟨⟨ha, hb, hc⟩, hw⟩
    obtain ⟨hop, ha', hb', hc'⟩ := (packWord_eq_iff (opcode_lt i) ha hb hc).1 hw
    rw [decodeWord, ← hop, ← ha', ← hb', ← hc']
    exact decodeFields_of_instr i

/-- Bits 63:32 of a value are zero exactly when it is its own low word. -/
theorem high_eq_zero_iff {v : Word} : v.toNat / 2 ^ 32 = 0 ↔ (v.setWidth 32).setWidth 64 = v := by
  have hv := v.isLt
  simp only [← BitVec.toNat_inj, BitVec.toNat_setWidth]
  omega

/-- A `CMD` value decodes to the well-formed command that it encodes, and to no other. -/
theorem decode_eq_ok {v : Word} {i : Instr} : decode v = .ok i ↔ i.wf = true ∧ encodeCmd i = v := by
  have hlow : (encodeCmd i).setWidth 32 = encode i := BitVec.setWidth_setWidth_of_le _ (by decide)
  rw [decode]
  constructor
  · intro h
    split at h
    next hv =>
      obtain ⟨hwf, he⟩ := decodeWord_eq_ok.1 h
      exact ⟨hwf, (congrArg _ he).trans (high_eq_zero_iff.1 hv)⟩
    next => cases h
  · rintro ⟨hwf, rfl⟩
    have hhigh : (encodeCmd i).toNat / 2 ^ 32 = 0 := high_eq_zero_iff.2 (congrArg (BitVec.setWidth 64) hlow)
    rw [if_pos hhigh, hlow]
    exact decodeWord_eq_ok.2 ⟨hwf, rfl⟩

/-- Settles O1: a command's word holds its opcode and operand bytes, on which the decoder answers that command. -/
theorem decodeOfEncode : Obligations.DecodeOfEncode :=
  fun _ hwf => decode_eq_ok.2 ⟨hwf, rfl⟩

/-- Settles O2: the decoder looks at every bit, the fields of the word and the high half of the value. -/
theorem encodeOfDecode : Obligations.EncodeOfDecode :=
  fun _ _ h => decode_eq_ok.1 h

/-- Settles O4: fifteen words are the encodings of well-formed commands, three are none. -/
theorem workedEncodingsDecode : Obligations.WorkedEncodingsDecode := by
  have hword {i : Instr} {w : BitVec 32} (hwf : i.wf = true) (he : encode i = w) : decodeWord w = .ok i :=
    decodeWord_eq_ok.2 ⟨hwf, he⟩
  exact ⟨hword rfl rfl, hword rfl rfl, hword rfl rfl, hword rfl rfl, hword rfl rfl, hword rfl rfl, hword rfl rfl,
    hword rfl rfl, hword rfl rfl, hword rfl rfl, hword rfl rfl, hword rfl rfl, hword rfl rfl, hword rfl rfl,
    hword rfl rfl, by decide, by decide, by decide⟩

end Sys2Proof.Proofs
end

section
/-! The opcode map as match and mask: a word under a row's mask is the row's match exactly when the word's opcode is the
row's and its operand field is one the row's format admits (R57, R58). -/

namespace Sys2Proof.Proofs

open Sys2Proof.Laws Sys2Proof.Machine Sys2Proof.Claims

/-! ### Match and mask (R58) -/

/-- The opcode of each row of the opcode map and how many low bits of the word its format gives to operands: 0 in format
N, 3 in Q, 8 in A1, 16 in A2 and I, 24 in A3. -/
def rowFormats : List (Nat × Nat) :=
  [(0x00, 0), (0x01, 0), (0x02, 0), (0x10, 3), (0x11, 0), (0x12, 0), (0x20, 0), (0x21, 16), (0x22, 16), (0x23, 0),
   (0x30, 0), (0x31, 8), (0x32, 16), (0x33, 24), (0x34, 24), (0x35, 0), (0x36, 0), (0x37, 0), (0x40, 8), (0x41, 16),
   (0x42, 16), (0x43, 24), (0x4F, 0)]

/-- A row's match is its opcode above zeros, its mask has the bits above the operands. -/
theorem specRows_eq : specRows =
    rowFormats.map fun r => (BitVec.ofNat 32 (r.1 * 2 ^ 24), BitVec.ofNat 32 (2 ^ 32 - 2 ^ r.2)) := by
  decide

theorem rowFormats_bounds : ∀ r ∈ rowFormats, r.1 < 256 ∧ r.2 ≤ 24 := by
  decide

theorem rowFormats_rowOf (i : Instr) : ∃ n, rowFormats[rowOf i]? = some (opcode i, n) := by
  cases i <;> exact ⟨_, rfl⟩

/-- Clearing the low `n` bits of a 32-bit number. -/
theorem and_highMask {x n : Nat} (hx : x < 2 ^ 32) (hn : n ≤ 32) : x &&& (2 ^ 32 - 2 ^ n) = x / 2 ^ n * 2 ^ n := by
  have hmask : 2 ^ 32 - 2 ^ n = (2 ^ (32 - n) - 1) <<< n := by
    rw [Nat.shiftLeft_eq, Nat.sub_mul, ← Nat.pow_add, Nat.sub_add_cancel hn, Nat.one_mul]
  rw [hmask, ← Nat.shiftRight_eq_div_pow, ← Nat.shiftLeft_eq]
  refine Nat.eq_of_testBit_eq fun i => ?_
  simp only [Nat.testBit_and, Nat.testBit_shiftLeft, Nat.testBit_two_pow_sub_one, Nat.testBit_shiftRight]
  by_cases hi : n ≤ i
  · by_cases h32 : i < 32
    · simp [hi, show i - n < 32 - n by omega]
    · have hbit : x.testBit i = false :=
        Nat.testBit_lt_two_pow (Nat.lt_of_lt_of_le hx (Nat.pow_le_pow_right (by decide) (by omega)))
      simp [hi, hbit]
  · simp [hi]

/-- A word under the mask of a row with `n` operand bits is the row's match exactly when its opcode is the row's and
its bits below the opcode are an `n`-bit number. -/
theorem and_mask_eq_iff {w : BitVec 32} {op n : Nat} (ho : op < 256) (hn : n ≤ 24) :
    w &&& BitVec.ofNat 32 (2 ^ 32 - 2 ^ n) = BitVec.ofNat 32 (op * 2 ^ 24) ↔
      op = slice w 31 24 ∧ w.toNat % 2 ^ 24 < 2 ^ n := by
  have hw := w.isLt
  have hpos : 0 < 2 ^ n := Nat.two_pow_pos n
  have hle : 2 ^ n ≤ 2 ^ 24 := Nat.pow_le_pow_right (by decide) hn
  have hsplit : op * 2 ^ 24 = op * 2 ^ (24 - n) * 2 ^ n := by
    rw [Nat.mul_assoc, ← Nat.pow_add, Nat.sub_add_cancel hn]
  rw [← BitVec.toNat_inj, BitVec.toNat_and, BitVec.toNat_ofNat, BitVec.toNat_ofNat, Nat.mod_eq_of_lt (by omega),
    Nat.mod_eq_of_lt (by omega), and_highMask hw (by omega), slice]
  calc w.toNat / 2 ^ n * 2 ^ n = op * 2 ^ 24
      ↔ w.toNat / 2 ^ n = op * 2 ^ (24 - n) := by rw [hsplit, Nat.mul_right_cancel_iff hpos]
    _ ↔ op * 2 ^ 24 ≤ w.toNat ∧ w.toNat < op * 2 ^ 24 + 2 ^ n := by
      rw [Nat.div_eq_iff hpos, hsplit]
      omega
    _ ↔ op = w.toNat / 2 ^ 24 % 2 ^ (31 + 1 - 24) ∧ w.toNat % 2 ^ 24 < 2 ^ n := by omega

/-! ### Which operand fields a row admits (R57) -/

/-- Bits 23:0 of a word with the operand bytes `a`, `b`, `c`. -/
def operandField (a b c : Nat) : Nat := a * 2 ^ 16 + b * 2 ^ 8 + c

theorem operandField_slices (w : BitVec 32) :
    operandField (slice w 23 16) (slice w 15 8) (slice w 7 0) = w.toNat % 2 ^ 24 := by
  simp only [operandField, slice, Nat.reducePow, Nat.reduceAdd, Nat.reduceSub]
  omega

/-- The decoding is a command of row `j`. -/
def InRow (j : Nat) (r : Except DecodeError Instr) : Prop := ∃ i, r = .ok i ∧ rowOf i = j

section
variable {a b c j : Nat} (hb : b < 256) (hc : c < 256)
include hb hc

theorem inRow_formatN {x : Instr} (hx : rowOf x = j) :
    InRow j (formatN a b c x) ↔ operandField a b c < 2 ^ 0 := by
  simp only [InRow, formatN_eq_ok, operandField]
  constructor
  · rintro ⟨_, ⟨⟨rfl, rfl, rfl⟩, rfl⟩, -⟩
    decide
  · exact fun h => ⟨x, ⟨by omega, rfl⟩, hx⟩

theorem inRow_formatQ {x : Fin 8 → Instr} (hx : ∀ q, rowOf (x q) = j) :
    InRow j (formatQ a b c x) ↔ operandField a b c < 2 ^ 3 := by
  simp only [InRow, formatQ_eq_ok, operandField]
  constructor
  · rintro ⟨_, ⟨⟨rfl, rfl⟩, q, rfl, rfl⟩, -⟩
    omega
  · exact fun h => ⟨x ⟨c, by omega⟩, ⟨by omega, _, rfl, rfl⟩, hx _⟩

theorem inRow_formatI {x : Nat → Instr} (hx : ∀ n, rowOf (x n) = j) :
    InRow j (formatI a b c x) ↔ operandField a b c < 2 ^ 16 := by
  simp only [InRow, formatI_eq_ok, operandField]
  constructor
  · rintro ⟨_, ⟨rfl, rfl⟩, -⟩
    omega
  · exact fun h => ⟨_, ⟨by omega, rfl⟩, hx _⟩

theorem inRow_formatA1 {x : Nat → Instr} (hx : ∀ n, rowOf (x n) = j) :
    InRow j (formatA1 a b c x) ↔ operandField a b c < 2 ^ 8 := by
  simp only [InRow, formatA1_eq_ok, operandField]
  constructor
  · rintro ⟨_, ⟨⟨rfl, rfl⟩, rfl⟩, -⟩
    omega
  · exact fun h => ⟨_, ⟨by omega, rfl⟩, hx _⟩

theorem inRow_formatA2 {x : Nat → Nat → Instr} (hx : ∀ m n, rowOf (x m n) = j) :
    InRow j (formatA2 a b c x) ↔ operandField a b c < 2 ^ 16 := by
  simp only [InRow, formatA2_eq_ok, operandField]
  constructor
  · rintro ⟨_, ⟨rfl, rfl⟩, -⟩
    omega
  · exact fun h => ⟨_, ⟨by omega, rfl⟩, hx _ _⟩

theorem inRow_formatA3 (ha : a < 256) {x : Nat → Nat → Nat → Instr} (hx : ∀ l m n, rowOf (x l m n) = j) :
    InRow j (formatA3 a b c x) ↔ operandField a b c < 2 ^ 24 := by
  simp only [InRow, formatA3_eq_ok, operandField]
  exact ⟨fun _ => by omega, fun _ => ⟨_, rfl, hx _ _ _⟩⟩

end

/-- On a row's opcode the decoder answers a command of that row exactly when the operand field is one the row's format
admits. -/
theorem inRow_decodeFields {a b c : Nat} (ha : a < 256) (hb : b < 256) (hc : c < 256) : ∀ j op n,
    rowFormats[j]? = some (op, n) → (InRow j (decodeFields op a b c) ↔ operandField a b c < 2 ^ n)
  | 0, _, _, rfl => inRow_formatN hb hc rfl
  | 1, _, _, rfl => inRow_formatN hb hc rfl
  | 2, _, _, rfl => inRow_formatN hb hc rfl
  | 3, _, _, rfl => inRow_formatQ hb hc fun _ => rfl
  | 4, _, _, rfl => inRow_formatN hb hc rfl
  | 5, _, _, rfl => inRow_formatN hb hc rfl
  | 6, _, _, rfl => inRow_formatN hb hc rfl
  | 7, _, _, rfl => inRow_formatA2 hb hc fun _ _ => rfl
  | 8, _, _, rfl => inRow_formatI hb hc fun _ => rfl
  | 9, _, _, rfl => inRow_formatN hb hc rfl
  | 10, _, _, rfl => inRow_formatN hb hc rfl
  | 11, _, _, rfl => inRow_formatA1 hb hc fun _ => rfl
  | 12, _, _, rfl => inRow_formatA2 hb hc fun _ _ => rfl
  | 13, _, _, rfl => inRow_formatA3 hb hc ha fun _ _ _ => rfl
  | 14, _, _, rfl => inRow_formatA3 hb hc ha fun _ _ _ => rfl
  | 15, _, _, rfl => inRow_formatN hb hc rfl
  | 16, _, _, rfl => inRow_formatN hb hc rfl
  | 17, _, _, rfl => inRow_formatN hb hc rfl
  | 18, _, _, rfl => inRow_formatA1 hb hc fun _ => rfl
  | 19, _, _, rfl => inRow_formatA2 hb hc fun _ _ => rfl
  | 20, _, _, rfl => inRow_formatA2 hb hc fun _ _ => rfl
  | 21, _, _, rfl => inRow_formatA3 hb hc ha fun _ _ _ => rfl
  | 22, _, _, rfl => inRow_formatN hb hc rfl

/-- A word decodes to a command of a row exactly when its opcode is the row's and its operand field is one the row's
format admits. -/
theorem inRow_decodeWord {w : BitVec 32} {j op n : Nat} (h : rowFormats[j]? = some (op, n)) :
    InRow j (decodeWord w) ↔ op = slice w 31 24 ∧ w.toNat % 2 ^ 24 < 2 ^ n := by
  have hfield := inRow_decodeFields (slice_byte_lt w 16) (slice_byte_lt w 8) (slice_byte_lt w 0) j op n h
  rw [operandField_slices] at hfield
  have hop (hin : InRow j (decodeWord w)) : op = slice w 31 24 := by
    obtain ⟨i, hi, rfl⟩ := hin
    obtain ⟨n', hi'⟩ := rowFormats_rowOf i
    cases hi'.symm.trans h
    exact (fields_of_decodeFields (slice_byte_lt w 0) hi).1.symm
  constructor
  · intro hin
    have hop := hop hin
    exact ⟨hop, hfield.1 (hop ▸ hin)⟩
  · rintro ⟨rfl, hlt⟩
    exact hfield.2 hlt

/-- Settles O3: both sides say that the opcode is the row's and that no bit above the row's operands is set. -/
theorem wordIsTheRowItMatches : Obligations.WordIsTheRowItMatches := by
  intro w j m k hrow
  rw [specRows_eq, List.getElem?_map, Option.map_eq_some_iff] at hrow
  obtain ⟨⟨op, n⟩, hr, hmk⟩ := hrow
  cases hmk
  obtain ⟨hop, hn⟩ := rowFormats_bounds _ (List.mem_of_getElem? hr)
  exact (inRow_decodeWord hr).trans (and_mask_eq_iff hop hn).symm

end Sys2Proof.Proofs
end

section
/-! `CMD` writes that run nothing: a word that is no command, and commands dropped while an error is pending (R59, R61,
R132). -/

namespace Sys2Proof.Proofs

open Sys2Proof.Machine Sys2Proof.Claims

/-- A `CMD` write that is no command (R59). -/
theorem command_illegal {v : Word} {d : DecodeError} (hdec : decode v = .error d) (s : State) :
    command Config.params v s = .next (if s.err = none then raiseError .illegal s else setHaz s) := by
  rw [command, hdec]
  cases s.err <;> rfl

/-- A command other than `CLR` and `SRST` is dropped while an error is pending (R61). -/
theorem command_dropped {v : Word} {i : Instr} {s : State} (hdec : decode v = .ok i) (hi : runsAtOnce i = false)
    (he : s.err ≠ none) : command Config.params v s = .next (setHaz s) := by
  have hstarts : starts Config.params i s = false :=
    Bool.eq_false_iff.2 fun h => he (ready_of_starts h).1.2
  have hexec : exec i s = .next (setHaz s) :=
    (exec_eq_issue hi s).trans (issue_dropped (.inr (Option.isSome_iff_ne_none.2 he)))
  rw [command, hdec, ← hexec]
  exact if_neg (by rw [hstarts, Bool.and_false]; nofun)

/-- The commands that run at once have the words `0x01000000` and `0x02000000` only. -/
theorem runsAtOnce_eq_false_of_decode {v : Word} {i : Instr} (hdec : decode v = .ok i) (hclr : v ≠ 0x01000000)
    (hsrst : v ≠ 0x02000000) : runsAtOnce i = false := by
  obtain ⟨-, rfl⟩ := decode_eq_ok.1 hdec
  refine Bool.eq_false_iff.2 fun h => ?_
  rcases runsAtOnce_iff.1 h with rfl | rfl
  · exact hclr rfl
  · exact hsrst rfl

/-- Settles O6: the write is answered and its value, which is no command, raises the error or is dropped. -/
theorem illegalWordRaisesIllegal : Obligations.IllegalWordRaisesIllegal := by
  intro s e v rest d hr hp hdec
  rw [step_cmd hr hp, command_illegal hdec]
  rfl

/-- Settles O9: a value that is no command is dropped like a command, and no other word is `CLR` or `SRST`. -/
theorem pendingErrorDropsCommands : Obligations.PendingErrorDropsCommands := by
  intro s e v rest hr he hp hclr hsrst
  rw [step_cmd hr hp]
  cases hdec : decode v with
  | error d => exact (command_illegal hdec _).trans (congrArg _ (if_neg he))
  | ok i => exact command_dropped hdec (runsAtOnce_eq_false_of_decode hdec hclr hsrst) he

end Sys2Proof.Proofs
end

section
/-! The three adapter commands with the operands of a hash stage do what the stage does (R113 to R117). -/

namespace Sys2Proof.Proofs

open Sys2Proof.Machine Sys2Proof.Claims

theorem execAll_cons {i : Instr} {is : List Instr} {s t : State} (h : exec i s = .next t) :
    execAll (i :: is) s = execAll is t := by
  rw [execAll, h]

/-- A command that is looked at and leaves no error has completed: its checks passed and its effect answered. -/
theorem plan_of_exec {i : Instr} {s t : State} (hr : Ready s) (hi : runsAtOnce i = false) (h : exec i s = .next t)
    (he : t.err = none) : ∃ t', planOf Config.params i s = .ok (.ok t') ∧ t = finished t' := by
  rcases hp : planOf Config.params i s with e | (f | t')
  · rw [exec_eq_issue hi, issue_ready hr.1 hr.2, hp] at h
    cases h
    cases he
  · exact absurd h (by rw [exec_stops hr hi hp]; nofun)
  · rw [exec_completes hr hi hp] at h
    exact ⟨t', rfl, (Host.Outcome.next.inj h).symm⟩

theorem exec_hpReset {k : Nat} {s : State} {u : Fin 5} (hr : Ready s) (hu : unit? k = some u) :
    exec (.hpReset k) s = .next (finished { s with acc := s.acc.set u (some []) }) := by
  have hplan : planHpReset k s = .ok (.ok { s with acc := s.acc.set u (some []) }) := by
    rw [planHpReset, hu]
  exact exec_completes hr rfl hplan

theorem exec_hpUpdate {k src : Nat} {s : State} {u : Fin 5} {b : Buf} {fed bs : List Byte} (hr : Ready s)
    (hu : unit? k = some u) (hb : srcBuf? src = some b) (hh : hdrLenOk b s = true) (ha : s.acc[u] = some fed)
    (hbs : readBuf s.mem b = .ok bs) :
    exec (.hpUpdate k src) s = .next (finished { s with acc := s.acc.set u (some (fed ++ bs)) }) := by
  refine exec_completes hr rfl ((planHpUpdate_eq hu hb hh ha).trans ?_)
  rw [hbs, ok_bind]

theorem exec_hpDigest {k dst : Nat} {s : State} {u : Fin 5} {d : Buf} {fed : List Byte} (hr : Ready s)
    (hu : unit? k = some u) (hd : dstBuf? dst = some d) (ha : s.acc[u] = some fed) :
    exec (.hpDigest k dst) s = .next (finished
      { s with mem := writeBuf s.mem d (hashOf Config.params u fed), acc := s.acc.set u none }) := by
  have hplan : planHpDigest Config.params k dst s =
      .ok (.ok { s with mem := writeBuf s.mem d (hashOf Config.params u fed), acc := s.acc.set u none }) := by
    simp only [planHpDigest, hu, hd, ha]
  exact exec_completes hr rfl hplan

/-- What a hash stage that completes found: its operands, a header of the right length if it reads one, and the bytes
of its source. -/
theorem planHstage_eq_ok {p : Params} {k src dst : Nat} {s t : State} (h : planHstage p k src dst s = .ok (.ok t)) :
    ∃ u b d bs, unit? k = some u ∧ srcBuf? src = some b ∧ dstBuf? dst = some d ∧ hdrLenOk b s = true ∧
      readBuf s.mem b = .ok bs ∧
      t = { s with mem := writeBuf s.mem d (hashOf p u bs), acc := s.acc.set u none } := by
  obtain ⟨u, b, d, hu, hb, hd, -⟩ := planHstage_ok h
  rw [planHstage_eq hu hb hd, checked_eq_ok] at h
  obtain ⟨hchecks, heffect⟩ := h
  obtain ⟨m, hm, ht⟩ := bind_eq_ok.1 heffect
  rw [hashStage_eq] at hm
  obtain ⟨bs, hbs, hm⟩ := bind_eq_ok.1 hm
  cases hm
  cases ht
  exact ⟨u, b, d, bs, hu, hb, hd, firstFailing_eq_none.1 hchecks (hdrLenOk b s, .hdrLen) (by simp), hbs, rfl⟩

/-- Resetting a unit, feeding it one source and taking its digest (R113 to R115): each command finds in `ACC` what the
one before it left, and nothing else it reads has changed. -/
theorem execAll_hashUnit {k src dst : Nat} {s : State} {u : Fin 5} {b d : Buf} {bs : List Byte} (hr : Ready s)
    (hu : unit? k = some u) (hb : srcBuf? src = some b) (hd : dstBuf? dst = some d) (hh : hdrLenOk b s = true)
    (hbs : readBuf s.mem b = .ok bs) :
    execAll [.hpReset k, .hpUpdate k src, .hpDigest k dst] s = .next (finished
      { s with mem := writeBuf s.mem d (hashOf Config.params u bs), acc := s.acc.set u none }) := by
  have hupdate : exec (.hpUpdate k src) (finished { s with acc := s.acc.set u (some []) }) =
      .next (finished { s with acc := s.acc.set u (some bs) }) := by
    rw [exec_hpUpdate (s := finished { s with acc := s.acc.set u (some []) }) hr hu hb hh
      (Vector.getElem_set_self u.isLt) hbs]
    simp only [finished, Vector.set_set, List.nil_append]
  have hdigest := exec_hpDigest (s := finished { s with acc := s.acc.set u (some bs) }) hr hu hd
    (Vector.getElem_set_self u.isLt)
  rw [execAll_cons (exec_hpReset hr hu), execAll_cons hupdate, execAll_cons hdigest]
  simp only [finished, Vector.set_set, execAll]

/-- Settles O47: a stage that completes has found what the three commands look for, and they leave what it leaves. -/
theorem hashPseudoCommandIsHstage : Obligations.HashPseudoCommandIsHstage := by
  intro k src dst s t hr h he
  obtain ⟨t', hplan, rfl⟩ := plan_of_exec hr rfl h he
  obtain ⟨u, b, d, bs, hu, hb, hd, hh, hbs, rfl⟩ := planHstage_eq_ok hplan
  exact execAll_hashUnit hr hu hb hd hh hbs

end Sys2Proof.Proofs
end

section
/-! The commands `QR`, `PERM.R` and `PERM.F`: what each leaves, which orders of quarter-rounds leave the same words, and
why a quarter-round loses no state (R71 to R80). -/

namespace Sys2Proof.Proofs

open Sys2Proof.Machine Sys2Proof.Claims

/-! ### Reading and writing the words of a tuple -/

/-- Word `i` is one of the four that the tuple names. -/
def Names (t : QuadIndex) (i : Nat) : Prop := t.d.val = i ∨ t.c.val = i ∨ t.b.val = i ∨ t.a.val = i

/-- No word is named by both tuples. -/
def DisjointTuples (t u : QuadIndex) : Prop := ∀ i, i < 16 → Names t i → ¬ Names u i

theorem scatter_unnamed {t : QuadIndex} {i : Nat} (hn : ¬ Names t i) (x : Quad) (S : Vector Word 16) (h : i < 16) :
    (scatter t x S)[i] = S[i] := by
  obtain ⟨hd, hc, hb, ha⟩ : t.d.val ≠ i ∧ t.c.val ≠ i ∧ t.b.val ≠ i ∧ t.a.val ≠ i := by
    simpa only [Names, not_or] using hn
  rw [getElem_scatter, if_neg hd, if_neg hc, if_neg hb, if_neg ha]

theorem scatter_named {t : QuadIndex} {i : Nat} (hn : Names t i) (x : Quad) (S S' : Vector Word 16) (h : i < 16) :
    (scatter t x S)[i] = (scatter t x S')[i] := by
  rw [getElem_scatter, getElem_scatter]
  by_cases ha : t.a.val = i
  · simp only [if_pos ha]
  · obtain hd | hc | hb : t.d.val = i ∨ t.c.val = i ∨ t.b.val = i := by
      simpa only [Names, ha, or_false] using hn
    · simp only [if_pos hd]
    · simp only [if_pos hc]
    · simp only [if_pos hb]

/-- A tuple reads back what was written to it. -/
theorem gather_scatter {t : QuadIndex} (ht : DistinctIndices t) (x : Quad) (S : Vector Word 16) :
    gather t (scatter t x S) = x := by
  obtain ⟨hab, hac, had, hbc, hbd, hcd⟩ := ht
  simp [gather, getElem_scatter, Fin.val_inj, hab.symm, hac.symm, had.symm, hbc.symm, hbd.symm, hcd.symm]

theorem scatter_scatter (t : QuadIndex) (x y : Quad) (S : Vector Word 16) :
    scatter t y (scatter t x S) = scatter t y S := by
  refine Vector.ext fun i hi => ?_
  by_cases hn : Names t i
  · exact scatter_named hn y _ _ hi
  · rw [scatter_unnamed hn, scatter_unnamed hn, scatter_unnamed hn]

theorem scatter_gather (t : QuadIndex) (S : Vector Word 16) : scatter t (gather t S) S = S := by
  simp [scatter, gather]

theorem gather_scatter_of_disjoint {t u : QuadIndex} (h : DisjointTuples t u) (x : Quad) (S : Vector Word 16) :
    gather t (scatter u x S) = gather t S := by
  have hkept (i : Fin 16) (hi : Names t i.val) : (scatter u x S)[i] = S[i] :=
    scatter_unnamed (h i.val i.isLt hi) x S i.isLt
  rw [gather, hkept t.a (by simp [Names]), hkept t.b (by simp [Names]), hkept t.c (by simp [Names]),
    hkept t.d (by simp [Names]), gather]

/-- Writes to tuples without a common word commute. -/
theorem scatter_comm {t u : QuadIndex} (h : DisjointTuples t u) (x y : Quad) (S : Vector Word 16) :
    scatter t x (scatter u y S) = scatter u y (scatter t x S) := by
  refine Vector.ext fun i hi => ?_
  by_cases hn : Names t i
  · rw [scatter_unnamed (h i hi hn), scatter_named hn]
  · rw [scatter_unnamed hn]
    by_cases hu : Names u i
    · exact scatter_named hu y _ _ hi
    · rw [scatter_unnamed hu, scatter_unnamed hu, scatter_unnamed hn]

/-! ### A quarter-round loses no state (R71) -/

/-- The first four assignments of `G`, and with other distances the last four (R71). -/
def halfMix (m n : Nat) (x : Quad) : Quad :=
  let a := x.a + x.b
  let d := rotr (x.d ^^^ a) m
  let c := x.c + d
  let b := rotr (x.b ^^^ c) n
  ⟨a, b, c, d⟩

/-- The assignments of `halfMix` undone, the last one first. -/
def unmixHalf (m n : Nat) (y : Quad) : Quad :=
  let b := rotr y.b (64 - n) ^^^ y.c
  let c := y.c - y.d
  let d := rotr y.d (64 - m) ^^^ y.a
  let a := y.a - b
  ⟨a, b, c, d⟩

theorem mix_eq_halves : mix = halfMix 16 63 ∘ halfMix 32 24 := rfl

/-- Two rotations by `64` places together turn the word once round. -/
theorem rotr_rotr (x : Word) {m n : Nat} (hm : 0 < m) (hn : 0 < n) (h : m + n = 64) : rotr (rotr x m) n = x := by
  rw [rotr_eq_rotateRight _ (by omega), rotr_eq_rotateRight _ (by omega)]
  refine BitVec.eq_of_getElem_eq fun i hi => ?_
  have hm' : m % 64 = m := Nat.mod_eq_of_lt (by omega)
  have hn' : n % 64 = n := Nat.mod_eq_of_lt (by omega)
  rw [BitVec.getElem_rotateRight]
  split <;> rw [BitVec.getElem_rotateRight]
  · rw [dif_neg (by omega)]
    congr 1; omega
  · rw [dif_pos (by omega)]
    congr 1; omega

theorem unmixHalf_halfMix {m n : Nat} (hm : 0 < m ∧ m < 64) (hn : 0 < n ∧ n < 64) (x : Quad) :
    unmixHalf m n (halfMix m n x) = x := by
  have hrm (y : Word) : rotr (rotr y m) (64 - m) = y := rotr_rotr y hm.1 (by omega) (by omega)
  have hrn (y : Word) : rotr (rotr y n) (64 - n) = y := rotr_rotr y hn.1 (by omega) (by omega)
  simp [unmixHalf, halfMix, hrm, hrn]

theorem halfMix_unmixHalf {m n : Nat} (hm : 0 < m ∧ m < 64) (hn : 0 < n ∧ n < 64) (y : Quad) :
    halfMix m n (unmixHalf m n y) = y := by
  have hrm (y : Word) : rotr (rotr y (64 - m)) m = y := rotr_rotr y (by omega) hm.1 (by omega)
  have hrn (y : Word) : rotr (rotr y (64 - n)) n = y := rotr_rotr y (by omega) hn.1 (by omega)
  simp [unmixHalf, halfMix, hrm, hrn]

theorem halfMix_bijective {m n : Nat} (hm : 0 < m ∧ m < 64) (hn : 0 < n ∧ n < 64) :
    Function.Bijective (halfMix m n) :=
  Function.bijective_iff_has_inverse.2 ⟨unmixHalf m n, unmixHalf_halfMix hm hn, halfMix_unmixHalf hm hn⟩

theorem mix_bijective : Function.Bijective mix := by
  rw [mix_eq_halves]
  exact (halfMix_bijective (by decide) (by decide)).comp (halfMix_bijective (by decide) (by decide))

/-- A function of four words, applied to the words of a tuple. -/
def onTuple (t : QuadIndex) (f : Quad → Quad) (S : Vector Word 16) : Vector Word 16 := scatter t (f (gather t S)) S

theorem quarterRound_eq_onTuple (q : Fin 8) : quarterRound q = onTuple (qtab q) mix := rfl

/-- What undoes a function on four words undoes it on the words of a tuple. -/
theorem onTuple_leftInverse {t : QuadIndex} (ht : DistinctIndices t) {f g : Quad → Quad}
    (h : Function.LeftInverse g f) : Function.LeftInverse (onTuple t g) (onTuple t f) := fun S => by
  rw [onTuple, onTuple, gather_scatter ht, scatter_scatter, h, scatter_gather]

theorem quarterRound_bijective (q : Fin 8) : Function.Bijective (quarterRound q) := by
  obtain ⟨unmix, hleft, hright⟩ := Function.bijective_iff_has_inverse.1 mix_bijective
  rw [quarterRound_eq_onTuple, Function.bijective_iff_has_inverse]
  exact ⟨onTuple (qtab q) unmix, onTuple_leftInverse (qtab_distinct q) hleft,
    onTuple_leftInverse (qtab_distinct q) hright⟩

/-! ### The zero state (R75) -/

/-- The sixteen zero words. -/
def zeroWords : Vector Word 16 := Vector.replicate 16 0

theorem gather_zeroWords (t : QuadIndex) : gather t zeroWords = ⟨0, 0, 0, 0⟩ := by
  simp [gather, zeroWords]

theorem mix_zero : mix ⟨0, 0, 0, 0⟩ = ⟨0, 0, 0, 0⟩ := by decide

theorem quarterRound_zeroWords (q : Fin 8) : quarterRound q zeroWords = zeroWords := by
  have h := scatter_gather (qtab q) zeroWords
  rwa [gather_zeroWords, ← mix_zero, ← gather_zeroWords (qtab q)] at h

theorem roundS_zeroWords : roundS zeroWords = zeroWords := by
  simp only [roundS, List.foldl_cons, List.foldl_nil, quarterRound_zeroWords]

theorem rounds_zeroWords (n : Nat) : rounds n zeroWords = zeroWords := by
  induction n with
  | zero => rfl
  | succ n ih => rw [rounds_succ, roundS_zeroWords, ih]

/-- Settles O26: the assignments of `G` can be undone one by one, and each keeps zero. -/
theorem quarterRoundIsABijection : Obligations.QuarterRoundIsABijection :=
  ⟨quarterRound_bijective, rounds_zeroWords 1, rounds_zeroWords 12⟩

/-! ### What the commands leave (R76, R78, R79) -/

/-- A command that changes `S` only leaves the CORE ready for the next one. -/
theorem ready_finished {s : State} (hr : Ready s) (S : Vector Word 16) : Ready (finished { s with S := S }) := by
  obtain ⟨hrun, herr⟩ := hr
  exact ⟨hrun, herr⟩

theorem exec_qr {s : State} (hr : Ready s) (q : Fin 8) :
    exec (.qr q) s = .next (finished { s with S := quarterRound q s.S }) :=
  exec_completes hr rfl rfl

theorem exec_permR {s : State} (hr : Ready s) : exec .permR s = .next (finished { s with S := rounds 1 s.S }) :=
  exec_completes hr rfl rfl

theorem exec_permF {s : State} (hr : Ready s) : exec .permF s = .next (finished { s with S := rounds 12 s.S }) :=
  exec_completes hr rfl rfl

/-- The claims' tuples are those of `QTAB` (R72). -/
theorem specTuples_getElem? (q : Fin 8) :
    specTuples[q.val]? = some ((qtab q).a, (qtab q).b, (qtab q).c, (qtab q).d) := by
  revert q
  decide

/-- Settles O22: `QR q` completes with the quarter-round of its tuple. -/
theorem qrAppliesOneQuarterRound : Obligations.QrAppliesOneQuarterRound := by
  intro q s a b c d hr htuple
  rw [specTuples_getElem? q] at htuple
  cases htuple
  exact ⟨_, exec_qr hr q, words_quarterRound q s.S⟩

/-- Settles O23: `PERM.R` and `PERM.F` complete with one round and with twelve. -/
theorem permAppliesItsRounds : Obligations.PermAppliesItsRounds := fun s hr =>
  ⟨⟨_, exec_permR hr, words_rounds 1 s.S⟩, ⟨_, exec_permF hr, words_rounds 12 s.S⟩⟩

/-! ### Orders of quarter-rounds (R80) -/

/-- The quarter-rounds of a list, one after another. -/
def quarterRounds (l : List (Fin 8)) (S : Vector Word 16) : Vector Word 16 := l.foldl (fun S q => quarterRound q S) S

theorem quarterRounds_append (l l' : List (Fin 8)) (S : Vector Word 16) :
    quarterRounds (l ++ l') S = quarterRounds l' (quarterRounds l S) := List.foldl_append

theorem roundS_eq_quarterRounds (S : Vector Word 16) :
    roundS S = quarterRounds ([0, 1, 2, 3] ++ [4, 5, 6, 7]) S := rfl

/-- A list of `QR` commands leaves the words its quarter-rounds leave. -/
theorem execAll_qr {s : State} (hr : Ready s) (q : Fin 8) (l : List (Fin 8)) :
    execAll ((q :: l).map .qr) s = .next (finished { s with S := quarterRounds (q :: l) s.S }) := by
  induction l generalizing q s with
  | nil => exact execAll_cons (exec_qr hr q)
  | cons r l ih =>
    rw [List.map_cons, execAll_cons (exec_qr hr q)]
    exact ih (ready_finished hr _) r

/-- `n + 1` commands `PERM.R` leave the words that as many rounds leave. -/
theorem execAll_permR {s : State} (hr : Ready s) (n : Nat) :
    execAll (List.replicate (n + 1) .permR) s = .next (finished { s with S := rounds (n + 1) s.S }) := by
  induction n generalizing s with
  | zero => exact execAll_cons (exec_permR hr)
  | succ n ih =>
    rw [List.replicate_succ, execAll_cons (exec_permR hr), Nat.add_comm (n + 1) 1, rounds_add]
    rw [ih (ready_finished hr _)]
    simp only [finished]

/-- A list of `QR` commands leaves what `PERM.R` leaves when its quarter-rounds are a round. -/
theorem execAll_qr_eq_permR_iff {s : State} (hr : Ready s) {l : List (Fin 8)} (hl : l ≠ []) :
    execAll (l.map .qr) s = exec .permR s ↔ quarterRounds l s.S = roundS s.S := by
  obtain ⟨q, l, rfl⟩ := List.exists_cons_of_ne_nil hl
  rw [execAll_qr hr, exec_permR hr]
  refine ⟨fun h => ?_, fun h => by rw [h]; rfl⟩
  injection h with h
  exact congrArg State.S h

theorem quarterRound_comm {q r : Fin 8} (h : DisjointTuples (qtab q) (qtab r)) (S : Vector Word 16) :
    quarterRound q (quarterRound r S) = quarterRound r (quarterRound q S) := by
  have h' : DisjointTuples (qtab r) (qtab q) := fun i hi hr hq => h i hi hq hr
  simp only [quarterRound, gather_scatter_of_disjoint h, gather_scatter_of_disjoint h', scatter_comm h]

/-- Two columns, and two diagonals, have no word in common (R72). -/
theorem qtab_disjoint {q r : Fin 8} (hne : q ≠ r) (hside : q < 4 ↔ r < 4) : DisjointTuples (qtab q) (qtab r) := by
  unfold DisjointTuples Names
  revert q r
  decide

/-- Quarter-rounds of one side of the table may be taken in any order. -/
theorem quarterRounds_perm {l l' : List (Fin 8)} (hp : l.Perm l') (hside : ∀ q ∈ l, ∀ r ∈ l, (q < 4 ↔ r < 4))
    (S : Vector Word 16) : quarterRounds l S = quarterRounds l' S := by
  refine hp.foldl_eq' (fun q hq r hr T => ?_) S
  by_cases hne : r = q
  · rw [hne]
  · exact quarterRound_comm (qtab_disjoint hne (hside r hr q hq)) T

/-- The state of V6: word `i` of `S` is `i`. -/
def countingWords : Vector Word 16 := Vector.ofFn fun i => BitVec.ofNat 64 i.val

/-- A diagonal quarter-round moved before any column quarter-round leaves another word 0 (R80 c). -/
theorem movedBefore_changes_counting : ∀ c d : Fin 8, c < 4 → 4 ≤ d →
    (quarterRounds (movedBefore d c) countingWords)[0] ≠ (roundS countingWords)[0] := by decide

/-- Settles O24: a list of `QR` leaves what `PERM.R` leaves exactly when its quarter-rounds are a round; columns commute,
diagonals commute, and the counting words tell the sixteen orders of (c) from a round. -/
theorem quarterRoundOrder : Obligations.QuarterRoundOrder := by
  refine ⟨fun s hr => ⟨?_, fun l l' hl hl' => ?_, ?_⟩, fun c d hc hd => ?_⟩
  · exact (execAll_qr_eq_permR_iff hr (by decide)).2 rfl
  · have hne : l ++ l' ≠ [] := List.append_ne_nil_of_left_ne_nil (fun h => by simp [h] at hl) l'
    rw [execAll_qr_eq_permR_iff hr hne, roundS_eq_quarterRounds, quarterRounds_append, quarterRounds_append,
      quarterRounds_perm hl.symm (by decide), quarterRounds_perm hl'.symm (by decide)]
  · exact (execAll_permR hr 11).trans (exec_permF hr).symm
  · refine ⟨{ State.reset with S := countingWords }, ⟨rfl, rfl⟩, fun h => ?_⟩
    rw [execAll_qr_eq_permR_iff ⟨rfl, rfl⟩ (by simp [movedBefore])] at h
    exact movedBefore_changes_counting c d hc hd (by rw [h])

end Sys2Proof.Proofs
end

section
/-! How a command whose arguments are refused ends, and the argument errors of the sponge and row commands in the order of
their checks (R87 to R89, R102 to R110, R129, R131). -/

namespace Sys2Proof.Proofs

open Sys2Proof.Machine Sys2Proof.Claims

/-! ### The first check that fails (R129) -/

/-- Where every check of a list names the same error, that is the error if one of them fails. -/
theorem firstFailing_of_code {l : List (Bool × ErrCode)} {e : ErrCode} (hcode : ∀ x ∈ l, x.2 = e)
    (hfail : firstFailing l ≠ none) : firstFailing l = some e := by
  induction l with
  | nil => exact absurd rfl hfail
  | cons x l ih =>
    obtain ⟨ok, c⟩ := x
    obtain ⟨rfl, hl⟩ := List.forall_mem_cons.1 hcode
    cases ok with
    | false => rfl
    | true => exact ih hl hfail

theorem firstFailing_single_error {b : Bool} (h : b = false) (e : ErrCode) : firstFailing [(b, e)] = some e := by
  rw [h]
  rfl

/-- Checks that pass leave the error to those appended to them. -/
theorem firstFailing_append_of_none {l : List (Bool × ErrCode)} (h : firstFailing l = none)
    (l' : List (Bool × ErrCode)) : firstFailing (l ++ l') = firstFailing l' := by
  rw [firstFailing_append, h, Option.none_or]

/-- Checks that fail hide those appended to them. -/
theorem firstFailing_append_of_some {l : List (Bool × ErrCode)} {e : ErrCode} (h : firstFailing l = some e)
    (l' : List (Bool × ErrCode)) : firstFailing (l ++ l') = some e := by
  rw [firstFailing_append, h, Option.some_or]

theorem checkGeom_param {p : Params} {R C : Word} (h : ¬ (0 < R.toInt ∧ 0 < C.toInt)) :
    firstFailing (checkGeom p R C) = some .param := by
  have hpos : (positive R && positive C) = false := by
    rwa [positive, positive, ← Bool.decide_and, decide_eq_false_iff_not]
  rw [checkGeom, firstFailing_cons, hpos]
  rfl

theorem checkGeom_capacity {p : Params} {R C : Word} (h : 0 < R.toInt ∧ 0 < C.toInt)
    (hM : p.mBlocks < R.toNat * C.toNat) : firstFailing (checkGeom p R C) = some .capacity := by
  have hpos : (positive R && positive C) = true := by
    rwa [positive, positive, ← Bool.decide_and, decide_eq_true_iff]
  rw [checkGeom, firstFailing_cons, hpos, if_pos rfl]
  exact firstFailing_single_error (decide_eq_false (Nat.not_le.2 hM)) _

theorem checkPad_capacity {p : Params} {s : State} (h : firstFailing (checkPad p s) ≠ none) :
    firstFailing (checkPad p s) = some .capacity :=
  firstFailing_of_code (by simp [checkPad]) h

/-! ### Commands that are refused (R131) -/

/-- A command one of whose checks fails. -/
theorem exec_refuses {i : Instr} {s : State} {e : ErrCode} (hr : Ready s) (hi : runsAtOnce i = false)
    (h : planOf Config.params i s = .error e) : exec i s = .next (refusedWith e s) := by
  obtain ⟨hrun, herr⟩ := hr
  rw [exec_eq_issue hi, issue_ready hrun herr, h]
  rfl

theorem exec_checked_refuses {i : Instr} {s : State} {checks : List (Bool × ErrCode)} {effect : Except Fault State}
    {e : ErrCode} (hr : Ready s) (hi : runsAtOnce i = false) (hplan : planOf Config.params i s = checked checks effect)
    (h : firstFailing checks = some e) : exec i s = .next (refusedWith e s) := by
  refine exec_refuses hr hi (hplan.trans ?_)
  rw [checked, h]

/-- A command that checks the geometry and then its operands. -/
theorem exec_geometryChecked {i : Instr} {s : State} {operand : Bool} {effect : Except Fault State} {ok : Prop}
    (hr : Ready s) (hi : runsAtOnce i = false)
    (hplan : planOf Config.params i s = checked (checkGeom Config.params s.nRows s.nCols ++ [(operand, .operand)]) effect)
    (hok : operand = true ↔ ok) :
    (¬ (0 < s.nRows.toInt ∧ 0 < s.nCols.toInt) → exec i s = .next (refusedWith .param s)) ∧
    (0 < s.nRows.toInt ∧ 0 < s.nCols.toInt → Config.params.mBlocks < s.nRows.toNat * s.nCols.toNat →
      exec i s = .next (refusedWith .capacity s)) ∧
    (Geometry s → ¬ ok → exec i s = .next (refusedWith .operand s)) := by
  refine ⟨fun hpos => ?_, fun hpos hM => ?_, fun hg hno => ?_⟩ <;> refine exec_checked_refuses hr hi hplan ?_
  · exact firstFailing_append_of_some (checkGeom_param hpos) _
  · exact firstFailing_append_of_some (checkGeom_capacity hpos hM) _
  · rw [firstFailing_append_of_none (checkGeom_of_geometry hg)]
    exact firstFailing_single_error (Bool.eq_false_iff.2 (mt hok.1 hno)) _

/-- Settles O14: each of the five commands checks the geometry and then its own operands. -/
theorem geometryErrorsInOrder : Obligations.GeometryErrorsInOrder := by
  rintro s i operandsOk hr
    (⟨row, col, rfl, hok⟩ | ⟨r, rfl, hok⟩ | ⟨a, b, rfl, hok⟩ | ⟨a, b, c, rfl, hok⟩ | ⟨a, b, c, rfl, hok⟩)
  · exact exec_geometryChecked hr rfl (planAbsf_eq _ _ _ _) (by simp [hok])
  · exact exec_geometryChecked hr rfl (planSqrow0_eq _ _ _) (by simp [hok, rowOk_iff])
  · exact exec_geometryChecked hr rfl (planDpxrow1_eq _ _ _ _) (by simp [hok, rowOk_iff, and_assoc])
  · exact exec_geometryChecked hr rfl (planDpxsetup_eq _ _ _ _ _) (by simp [hok, rowOk_iff, and_assoc])
  · exact exec_geometryChecked hr rfl (planDpxwander_eq _ _ _ _ _) (by simp [hok, rowOk_iff, and_assoc])

/-- Settles O16: `PAD` and the checks of `DERIVE` after `CheckParams` know one error only, so it does not matter which of
them fails. -/
theorem argumentErrorsOfTheOthers : Obligations.ArgumentErrorsOfTheOthers := by
  intro s hr
  refine ⟨fun n hn => ?_, fun hout => ?_, fun hpad => ?_, fun hp hprev => ?_, fun hp hfit => ?_⟩
  · exact exec_checked_refuses hr rfl (planAbss_eq _ _)
      (firstFailing_single_error (decide_eq_false (Nat.not_lt.2 hn)) _)
  · exact exec_checked_refuses hr rfl (planSqz_eq _ _)
      (firstFailing_single_error (decide_eq_false (Nat.not_le.2 hout)) _)
  · exact exec_checked_refuses hr rfl (planPad_eq _ _) (checkPad_capacity (mt checkPad_passes.1 hpad))
  · refine exec_checked_refuses hr rfl (planWander_eq _ _) ?_
    rw [firstFailing_append_of_none (checkParams_of_parameters hp)]
    exact firstFailing_single_error (decide_eq_false (Nat.not_lt.2 hprev)) _
  · refine exec_checked_refuses hr rfl (planDerive_eq _ _) ?_
    rw [List.append_assoc, firstFailing_append_of_none (checkParams_of_parameters hp)]
    refine firstFailing_of_code (by simp [checkPad]) fun hnone => hfit ?_
    rwa [firstFailing_append_eq_none, checkPad_passes, firstFailing_single, decide_eq_true_iff] at hnone

end Sys2Proof.Proofs
end

section
/-! The commands `SINIT`, `ABSF`, `ABSS` and `SQZ`: what absorption and squeeze do to the words of `S` as the claims write
them, and what each command leaves (R81 to R89). -/

namespace Sys2Proof.Proofs

open Sys2Proof.Machine Sys2Proof.Claims

/-! ### Reading words (R40, R47) -/

theorem readWords_of_holdsWord {m : Memory} {a n : Nat} {ws : Fin n → Word}
    (h : ∀ k : Fin n, HoldsWord m (a + 8 * k.val) (ws k)) : readWords m a n = .ok (Vector.ofFn ws) := by
  refine readWords_eq_ok.2 fun k hk i hi => ?_
  rw [h ⟨k, hk⟩ i hi, Vector.getElem_ofFn, byteOf_eq_wordByte]

theorem readBlock_of_holdsBlock {m : Memory} {C row col : Nat} {blk : Fin 12 → Word}
    (h : HoldsBlock m C row col blk) : readBlock m C row col = .ok (Vector.ofFn blk) :=
  readWords_of_holdsWord h

/-! ### Absorption (R82, R83) -/

theorem words_xorInto {n : Nat} (ws : Fin n → Word) (S : Vector Word 16) :
    words (xorInto (Vector.ofFn ws) S) = xorRate ws (words S) := by
  funext i
  change (xorInto (Vector.ofFn ws) S)[i.val] = _
  rw [getElem_xorInto, xorRate]
  simp only [Vector.getElem_ofFn]
  rfl

theorem words_fullTransform_xorInto {n : Nat} (ws : Fin n → Word) (S : Vector Word 16) :
    words (fullTransform (xorInto (Vector.ofFn ws) S)) = specRounds 12 (xorRate ws (words S)) := by
  rw [fullTransform, words_rounds, words_xorInto]

/-! ### Squeeze (R85) -/

/-- Byte `k` of a vector of words, little-endian (R40). -/
theorem getElem?_le64s_toList {n k : Nat} (v : Vector Word n) (hk : k / 8 < n) :
    (le64s v.toList)[k]? = some (wordByte v[k / 8] (k % 8)) := by
  have hbyte := getElem?_le64s (ws := v.toList) (k := k / 8) (by simpa using hk) (Nat.mod_lt k (by decide : 0 < 8))
  rwa [Nat.div_add_mod, Vector.getElem_toList, byteOf_eq_wordByte] at hbyte

/-- Byte `k` of the little-endian `S`. -/
def spongeByte (S : Vector Word 16) (k : Nat) : Byte := wordByte (words S (Fin.ofNat 16 (k / 8))) (k % 8)

theorem spongeByte_eq {S : Vector Word 16} {k : Nat} (h : k / 8 < 16) :
    spongeByte S k = wordByte S[k / 8] (k % 8) := by
  have hi : Fin.ofNat 16 (k / 8) = ⟨k / 8, h⟩ := Fin.ext (Nat.mod_eq_of_lt h)
  rw [spongeByte, hi]
  rfl

theorem getElem?_le64s_rate {k : Nat} (S : Vector Word 16) (h : k < 96) :
    (le64s (rate S).toList)[k]? = some (spongeByte S k) := by
  rw [getElem?_le64s_toList _ (by omega), getElem_rate, spongeByte_eq]

theorem getElem?_le64s_sponge {k : Nat} (S : Vector Word 16) (h : k < 128) :
    (le64s S.toList)[k]? = some (spongeByte S k) := by
  rw [getElem?_le64s_toList _ (by omega), spongeByte_eq]

/-- Byte `j` of the full blocks comes from the block `j / 96`, squeezed after as many full transforms. -/
theorem getElem?_squeezeBlocks {n j : Nat} (S : Vector Word 16) (h : j < 96 * n) :
    (squeezeBlocks n S).1[j]? = some (spongeByte (rounds (12 * (j / 96)) S) (j % 96)) := by
  induction n generalizing S j with
  | zero => omega
  | succ n ih =>
    have hlen : (le64s (rate S).toList).length = 96 := length_blockBytes _
    rw [squeezeBlocks]
    by_cases hj : j < 96
    · rw [List.getElem?_append_left (by omega), getElem?_le64s_rate S hj, Nat.div_eq_of_lt hj, Nat.mod_eq_of_lt hj]
      rfl
    · obtain ⟨k, rfl⟩ := Nat.exists_eq_add_of_le' (Nat.not_lt.1 hj)
      rw [List.getElem?_append_right (by omega), hlen, Nat.add_sub_cancel, ih _ (by omega), fullTransform,
        ← rounds_add, Nat.add_mod_right, Nat.add_div_right _ (by decide), Nat.mul_succ, Nat.add_comm 12]

/-- The partial chunk continues the full blocks: it is filled from `S` after the last full transform. -/
theorem getElem?_squeeze {n j : Nat} (S : Vector Word 16) (h : j < n) :
    (squeeze n S).1[j]? = some (spongeByte (rounds (12 * (j / 96)) S) (j % 96)) := by
  have hlen := length_squeezeBlocks (n / 96) S
  rw [squeeze]
  by_cases hj : j < 96 * (n / 96)
  · rw [List.getElem?_append_left (by omega), getElem?_squeezeBlocks S hj]
  · have hdiv : j / 96 = n / 96 := by omega
    have hmod : j - 96 * (n / 96) = j % 96 := by omega
    rw [List.getElem?_append_right (by omega), hlen, hmod, List.getElem?_take_of_lt (by omega), squeezeBlocks_snd,
      getElem?_le64s_sponge _ (by omega), hdiv]

/-! ### What the commands leave (R86 to R89) -/

theorem exec_sinit {s : State} (hr : Ready s) :
    exec .sinit s = .next (finished { s with S := initWords Config.params.iv }) :=
  exec_completes hr rfl rfl

theorem exec_absf {row col : Nat} {s : State} {blk : Vector Word 12} (hr : Ready s) (hg : Geometry s)
    (hrow : row < s.nRows.toNat) (hcol : col < s.nCols.toNat)
    (hblk : readBlock s.mem s.nCols.toNat row col = .ok blk) :
    exec (.absf row col) s = .next (finished { s with S := fullTransform (xorInto blk s.S) }) := by
  refine exec_completes hr rfl ((planAbsf_eq _ _ _ _).trans (checked_eq_ok.2 ⟨?_, by rw [hblk, ok_bind]; rfl⟩))
  rw [firstFailing_append_eq_none, firstFailing_single]
  exact ⟨checkGeom_of_geometry hg, by simp [hrow, hcol]⟩

theorem exec_abss {n : Nat} {s : State} {blk : Vector Word 8} (hr : Ready s) (hn : n < s.nBlk.toNat)
    (hblk : readSafeBlock s.mem n = .ok blk) :
    exec (.abss n) s = .next (finished { s with S := fullTransform (xorInto blk s.S) }) :=
  exec_completes hr rfl ((planAbss_eq _ _).trans (checked_eq_ok.2
    ⟨firstFailing_single.2 (decide_eq_true hn), by rw [hblk, ok_bind]; rfl⟩))

theorem exec_sqz {s : State} (hr : Ready s) (hout : s.outLen.toNat ≤ Config.params.outMax) :
    exec .sqz s = .next (finished { s with
      S := (squeeze s.outLen.toNat s.S).2
      mem := memWrite s.mem outBase (squeeze s.outLen.toNat s.S).1 }) :=
  exec_completes hr rfl ((planSqz_eq _ _).trans (checked_eq_ok.2
    ⟨firstFailing_single.2 (decide_eq_true hout), rfl⟩))

/-- Settles O27: `SINIT` completes with the initial state, word by word. -/
theorem sinitSetsTheInitialState : Obligations.SinitSetsTheInitialState := fun _ hr =>
  ⟨_, exec_sinit hr, fun i => getElem_initWords Config.params.iv i.val i.isLt⟩

/-- Settles O28: the block held is the block read, and absorbing it is the XOR and the twelve rounds of the claims. -/
theorem absfAbsorbsABlock : Obligations.AbsfAbsorbsABlock := fun _ _ s blk hr hg hrow hcol hblk =>
  ⟨_, exec_absf hr hg hrow hcol (readBlock_of_holdsBlock hblk), words_fullTransform_xorInto blk s.S⟩

/-- Settles O29: the safe block held is the one read, and absorbing it is the XOR and the twelve rounds of the claims. -/
theorem abssAbsorbsASafeBlock : Obligations.AbssAbsorbsASafeBlock := fun _ s blk hr hn hblk =>
  ⟨_, exec_abss hr hn (readWords_of_holdsWord hblk), words_fullTransform_xorInto blk s.S⟩

/-- Settles O30: `SQZ` writes the squeezed bytes at the start of OUT, and byte `j` of them is byte `j mod 96` of `S` after
`j div 96` full transforms, in a full block and in the partial chunk alike. -/
theorem sqzSqueezesIntoOut : Obligations.SqzSqueezesIntoOut := by
  intro s hr hout
  refine ⟨_, _, exec_sqz hr hout, ?_, fun j hj => ?_, fun b hb => ?_⟩
  · rw [squeeze, squeezeBlocks_snd, words_rounds]
  · have hmod : j % 96 % 8 = j % 8 := Nat.mod_mod_of_dvd j (by decide)
    have hbyte := memGet?_memWrite_inside (m := s.mem) (base := outBase) (hj.trans_eq (length_squeeze _ s.S).symm)
    rw [← List.getElem?_eq_getElem, getElem?_squeeze s.S hj, spongeByte, words_rounds, hmod] at hbyte
    exact hbyte
  · refine memGet?_memWrite_outside ?_
    rwa [length_squeeze]

end Sys2Proof.Proofs
end

section
/-! The argument errors of `SETUP`, `WANDER` and `DERIVE` in the order of `CheckParams` (R101, R129). -/

namespace Sys2Proof.Proofs

open Sys2Proof.Machine Sys2Proof.Claims

section
variable {p : Params} {t R C : Word}

theorem positive_and_iff :
    (positive t && positive R && positive C) = true ↔ 0 < t.toInt ∧ 0 < R.toInt ∧ 0 < C.toInt := by
  simp [positive, and_assoc]

theorem powerOfTwo_check_iff {n : Nat} :
    (isPowerOfTwo n && decide (n ≠ 1)) = true ↔ ∃ k, 0 < k ∧ n = 2 ^ k := by
  rw [Bool.and_eq_true, decide_eq_true_iff, isPowerOfTwo_and_ne_one]

theorem checkParams_param (h : ¬ (0 < t.toInt ∧ 0 < R.toInt ∧ 0 < C.toInt)) :
    firstFailing (checkParams p t R C) = some .param := by
  rw [checkParams, firstFailing_cons, if_neg (mt positive_and_iff.1 h)]

theorem checkParams_nRows (h : 0 < t.toInt ∧ 0 < R.toInt ∧ 0 < C.toInt) (hR : ¬ ∃ k, 0 < k ∧ R.toNat = 2 ^ k) :
    firstFailing (checkParams p t R C) = some .nRows := by
  rw [checkParams, firstFailing_cons, if_pos (positive_and_iff.2 h), firstFailing_cons,
    if_neg (mt powerOfTwo_check_iff.1 hR)]

theorem checkParams_capacity (h : 0 < t.toInt ∧ 0 < R.toInt ∧ 0 < C.toInt) (hR : ∃ k, 0 < k ∧ R.toNat = 2 ^ k)
    (hM : p.mBlocks < R.toNat * C.toNat) : firstFailing (checkParams p t R C) = some .capacity := by
  rw [checkParams, firstFailing_cons, if_pos (positive_and_iff.2 h), firstFailing_cons,
    if_pos (powerOfTwo_check_iff.2 hR)]
  exact firstFailing_single_error (decide_eq_false (Nat.not_le.2 hM)) _

end

/-- A command that runs `CheckParams` before any other check it has. -/
theorem exec_parametersChecked {i : Instr} {s : State} {t : Word} {others : List (Bool × ErrCode)}
    {effect : Except Fault State} (hr : Ready s) (hi : runsAtOnce i = false)
    (hplan : planOf Config.params i s = checked (checkParams Config.params t s.nRows s.nCols ++ others) effect) :
    (¬ (0 < t.toInt ∧ 0 < s.nRows.toInt ∧ 0 < s.nCols.toInt) → exec i s = .next (refusedWith .param s)) ∧
    (0 < t.toInt ∧ 0 < s.nRows.toInt ∧ 0 < s.nCols.toInt → (¬ ∃ k, 0 < k ∧ s.nRows.toNat = 2 ^ k) →
      exec i s = .next (refusedWith .nRows s)) ∧
    (0 < t.toInt ∧ 0 < s.nRows.toInt ∧ 0 < s.nCols.toInt → (∃ k, 0 < k ∧ s.nRows.toNat = 2 ^ k) →
      Config.params.mBlocks < s.nRows.toNat * s.nCols.toNat → exec i s = .next (refusedWith .capacity s)) := by
  refine ⟨fun hpos => ?_, fun hpos hR => ?_, fun hpos hR hM => ?_⟩ <;> refine exec_checked_refuses hr hi hplan ?_
  · exact firstFailing_append_of_some (checkParams_param hpos) _
  · exact firstFailing_append_of_some (checkParams_nRows hpos hR) _
  · exact firstFailing_append_of_some (checkParams_capacity hpos hR hM) _

/-- Settles O15: `CheckParams` comes first in each of the three commands, in `SETUP` with the time cost 1. -/
theorem parameterErrorsInOrder : Obligations.ParameterErrorsInOrder := by
  rintro s i t hr (⟨rfl, rfl⟩ | ⟨rfl, rfl⟩ | ⟨rfl, rfl⟩)
  · exact exec_parametersChecked (others := []) hr rfl ((planSetup_eq _ _).trans (by rw [List.append_nil]))
  · exact exec_parametersChecked hr rfl (planWander_eq _ _)
  · exact exec_parametersChecked hr rfl ((planDerive_eq _ _).trans (by rw [List.append_assoc]))

end Sys2Proof.Proofs
end

section
/-! `PAD`: the padded input byte by byte as the claims write it, and what the command leaves (R90, R103). -/

namespace Sys2Proof.Proofs

open Sys2Proof.Machine Sys2Proof.Claims

/-! ### The padded input (R90) -/

theorem le64_eq_leBytes (v : Word) : le64 v = leBytes v := by
  simp only [le64, leBytes, byteOf_eq_wordByte]
  rfl

theorem padMessage_eq_message (outLen : Word) (pwd salt : List Byte) (t R C : Word) :
    padMessage outLen pwd salt t R C = message outLen pwd salt t R C := by
  simp only [padMessage, message, le64_eq_leBytes, natReg]

/-- Byte `i` of a message padded to `n` safe blocks. -/
theorem getElem?_padFill {m : List Byte} {n i : Nat} (hn : (m.length + 63) / 64 = n) (hi : i < 64 * n) :
    (padFill m)[i]? = some (paddedByte m n i) := by
  have hget : (m ++ List.replicate (64 * n - m.length) 0#8)[i]? = some (m[i]?.getD 0#8) := by
    by_cases hm : i < m.length
    · rw [List.getElem?_append_left hm, List.getElem?_eq_getElem hm]
      rfl
    · rw [List.getElem?_append_right (by omega), List.getElem?_replicate_of_lt (by omega),
        List.getElem?_eq_none (by omega)]
      rfl
  rw [padFill, hn, List.getElem?_modify, hget, paddedByte]
  by_cases hlast : i = 64 * n - 1
  · simp [hlast]
  · simp [hlast, Ne.symm hlast]

theorem getElem?_padInput {outLen : Word} {pwd salt : List Byte} {t R C : Word} {i : Nat}
    (hi : i < 64 * padBlocks pwd.length salt.length) :
    (padInput outLen pwd salt t R C)[i]? =
      some (paddedByte (message outLen pwd salt t R C) (padBlocks pwd.length salt.length) i) := by
  rw [padInput, getElem?_padFill _ hi, padMessage_eq_message]
  rw [length_padMessage, padBlocks]
  omega

/-! ### The command (R103) -/

theorem readBytes_of_holdsBytes {m : Memory} {a n : Nat} {bs : List Byte} (hl : bs.length = n)
    (h : HoldsBytes m a bs) : readBytes m a n = .ok bs :=
  readBytes_eq_ok.2 ⟨hl, fun k hk => h k (by omega)⟩

theorem exec_pad {s : State} {pwd salt : List Byte} (hr : Ready s) (hfit : PadFits s)
    (hpwd : readBytes s.mem pwdBase s.pwdLen.toNat = .ok pwd)
    (hsalt : readBytes s.mem saltBase s.saltLen.toNat = .ok salt) :
    exec .pad s = .next (finished { s with
      mem := padProc s.outLen pwd salt s.timeCost s.nRows s.nCols s.mem
      nBlk := natReg (padBlocks pwd.length salt.length) }) :=
  exec_completes hr rfl ((planPad_eq _ _).trans (checked_eq_ok.2
    ⟨checkPad_of_padFits hfit, by rw [hpwd, ok_bind, hsalt, ok_bind]⟩))

/-- Settles O31: the bytes held are the inputs read, and what is written at PADBUF is the padded input. -/
theorem padWritesThePaddedInput : Obligations.PadWritesThePaddedInput := by
  intro s pwd salt hr hfit hpwdLen hpwd hsaltLen hsalt
  have hblocks : padBlocks pwd.length salt.length = blocksOf s := by rw [hpwdLen, hsaltLen]; rfl
  have hexec := exec_pad hr hfit (readBytes_of_holdsBytes (a := pwdBase) hpwdLen hpwd)
    (readBytes_of_holdsBytes (a := saltBase) hsaltLen hsalt)
  rw [hblocks] at hexec
  have hlen := length_padInput s.outLen pwd salt s.timeCost s.nRows s.nCols
  refine ⟨_, hexec, fun i hi => ?_, fun b hb => memGet?_memWrite_outside ?_⟩
  · have hbyte := memGet?_memWrite_inside (m := s.mem) (base := padBase) (hi.trans_eq (by rw [hlen, hblocks]))
    rwa [← List.getElem?_eq_getElem, getElem?_padInput (by rwa [hblocks]), hblocks] at hbyte
  · rwa [hlen, hblocks]

end Sys2Proof.Proofs
end

section
/-! The commands `SQROW0`, `DPXROW1`, `DPXSETUP` and `DPXWANDER` block by block: what the columns of a row operation have
left when `c` of them are done, and what each command leaves (R91 to R95, R104 to R107). -/

namespace Sys2Proof.Proofs

open Sys2Proof.Machine Sys2Proof.Claims

/-! ### Blocks in storage (R47) -/

/-- The byte is no part of the block `(row, col)` of a matrix with `C` columns. -/
def OutsideBlock (C row col b : Nat) : Prop := b < blockAddr C row col ∨ blockAddr C row col + 96 ≤ b

/-- The byte is no part of row `row` of a matrix with `C` columns. -/
def OutsideRow (C row b : Nat) : Prop := b < rowBase C row ∨ rowBase C row + 96 * C ≤ b

theorem OutsideRow.outsideBlock {C row col b : Nat} (h : OutsideRow C row b) (hc : col < C) :
    OutsideBlock C row col b := by
  have hM : mBase = 0x10000 := rfl
  unfold OutsideRow rowBase at h
  unfold OutsideBlock blockAddr
  omega

/-- Bytes of a block are no part of another block of the same matrix. -/
theorem outsideBlock_of_ne {C row col row' col' k : Nat} (hc : col < C) (hc' : col' < C)
    (hne : (row, col) ≠ (row', col')) (hk : k < 96) : OutsideBlock C row' col' (blockAddr C row col + k) := by
  unfold OutsideBlock
  rcases blockAddr_eq_or_disjoint C row col row' col' hc hc' with ⟨rfl, rfl⟩ | h | h
  · exact absurd rfl hne
  · omega
  · omega

theorem holdsBlock_congr {m m' : Memory} {C row col : Nat} {blk : Fin 12 → Word} (h : HoldsBlock m C row col blk)
    (hm : ∀ k, k < 96 → memGet? m' (blockAddr C row col + k) = memGet? m (blockAddr C row col + k)) :
    HoldsBlock m' C row col blk := by
  intro k i hi
  have hk := k.isLt
  have hold := h k i hi
  rw [Nat.add_assoc] at hold ⊢
  exact (hm (8 * k.val + i) (by omega)).trans hold

theorem holdsBlock_unique {m : Memory} {C row col : Nat} {x y : Fin 12 → Word} (hx : HoldsBlock m C row col x)
    (hy : HoldsBlock m C row col y) : x = y := by
  have h := Except.ok.inj ((readBlock_of_holdsBlock hx).symm.trans (readBlock_of_holdsBlock hy))
  funext k
  simpa using congrArg (fun v : Vector Word 12 => v[k]) h

/-- A block given word by word, written and held. -/
theorem holdsBlock_writeBlock (m : Memory) (C row col : Nat) (blk : Fin 12 → Word) :
    HoldsBlock (writeBlock m C row col (Vector.ofFn blk)) C row col blk := fun k i hi => by
  have h := readWords_eq_ok.1 (readBlock_writeBlock_same m C row col (Vector.ofFn blk)) k.val k.isLt i hi
  rwa [Vector.getElem_ofFn, byteOf_eq_wordByte] at h

theorem memGet?_writeBlock_outside {m : Memory} {C row col b : Nat} (blk : Vector Word 12)
    (h : OutsideBlock C row col b) : memGet? (writeBlock m C row col blk) b = memGet? m b := by
  refine memGet?_memWrite_outside ?_
  rwa [length_blockBytes]

theorem holdsBlock_writeBlock_other {m : Memory} {C row col row' col' : Nat} {x : Fin 12 → Word}
    (h : HoldsBlock m C row col x) (hc : col < C) (hc' : col' < C) (hne : (row, col) ≠ (row', col'))
    (blk : Vector Word 12) : HoldsBlock (writeBlock m C row' col' blk) C row col x :=
  holdsBlock_congr h fun _ hk => memGet?_writeBlock_outside blk (outsideBlock_of_ne hc hc' hne hk)

/-! ### The columns of a row operation -/

/-- What a row operation with `C` columns has done to the storage `m` after `c` of them: column `i` has written block
`col r i` of each row `r` of `rows`, with `out r i`, and `S` is `St c`. -/
structure ColumnsDone (C : Nat) (rows : List Nat) (col : Nat → Nat → Nat) (St : Nat → Fin 16 → Word)
    (out : Nat → Nat → Fin 12 → Word) (m : Memory) (c : Nat) (v : Work) : Prop where
  state : words v.S = St c
  written : ∀ r ∈ rows, ∀ i, i < c → HoldsBlock v.mem C r (col r i) (out r i)
  kept : ∀ b, (∀ r ∈ rows, ∀ i, i < c → OutsideBlock C r (col r i) b) → memGet? v.mem b = memGet? m b

/-- Different columns write different blocks of a row. -/
def ColumnsApart (C : Nat) (rows : List Nat) (col : Nat → Nat → Nat) : Prop :=
  ∀ r ∈ rows, ∀ i, i < C → col r i < C ∧ ∀ j, j < C → col r i = col r j → i = j

/-- What one column does on the storage `v` that the columns before it left. -/
structure ColumnStep (C : Nat) (rows : List Nat) (col : Nat → Nat → Nat) (St : Nat → Fin 16 → Word)
    (out : Nat → Nat → Fin 12 → Word) (c : Nat) (v v' : Work) : Prop where
  state : words v'.S = St (c + 1)
  written : ∀ r ∈ rows, HoldsBlock v'.mem C r (col r c) (out r c)
  kept : ∀ b, (∀ r ∈ rows, OutsideBlock C r (col r c) b) → memGet? v'.mem b = memGet? v.mem b

section
variable {C : Nat} {rows : List Nat} {col : Nat → Nat → Nat} {St : Nat → Fin 16 → Word}
  {out : Nat → Nat → Fin 12 → Word} {m : Memory} {c : Nat} {v v' : Work}

theorem columnsDone_zero (h : words v.S = St 0) : ColumnsDone C rows col St out v.mem 0 v :=
  ⟨h, fun _ _ _ hi => absurd hi (Nat.not_lt_zero _), fun _ _ => rfl⟩

/-- A block that no column before `c` writes is as the row operation found it. -/
theorem ColumnsDone.holdsBlock (h : ColumnsDone C rows col St out m c v) (ha : ColumnsApart C rows col) (hc : c ≤ C)
    {r k : Nat} {x : Fin 12 → Word} (hx : HoldsBlock m C r k x) (hk : k < C)
    (hne : r ∈ rows → ∀ i, i < c → k ≠ col r i) : HoldsBlock v.mem C r k x := by
  refine holdsBlock_congr hx fun n hn => h.kept _ fun r' hr' i hi => outsideBlock_of_ne hk (ha r' hr' i (by omega)).1 ?_ hn
  rintro ⟨⟩
  exact hne hr' i hi rfl

/-- A block of the matrix that column `c` writes is still as the row operation found it. -/
theorem ColumnsDone.holdsBlock_next (h : ColumnsDone C rows col St out m c v) (ha : ColumnsApart C rows col)
    (hc : c < C) {r : Nat} {x : Fin 12 → Word} (hr : r ∈ rows) (hx : HoldsBlock m C r (col r c) x) :
    HoldsBlock v.mem C r (col r c) x := by
  obtain ⟨hlt, hinj⟩ := ha r hr c hc
  exact h.holdsBlock ha hc.le hx hlt fun _ i hi he => absurd (hinj i (by omega) he) (by omega)

theorem ColumnsDone.succ (h : ColumnsDone C rows col St out m c v) (ha : ColumnsApart C rows col) (hc : c < C)
    (hs : ColumnStep C rows col St out c v v') : ColumnsDone C rows col St out m (c + 1) v' := by
  refine ⟨hs.state, fun r hr i hi => ?_, fun b hb => ?_⟩
  · rcases Nat.lt_succ_iff_lt_or_eq.1 hi with hlt | rfl
    · refine holdsBlock_congr (h.written r hr i hlt) fun n hn => hs.kept _ fun r' hr' => ?_
      refine outsideBlock_of_ne (ha r hr i (by omega)).1 (ha r' hr' c hc).1 (fun he => ?_) hn
      obtain ⟨rfl, hcol⟩ := Prod.mk.inj he
      exact absurd ((ha r hr i (by omega)).2 c hc hcol) (by omega)
    · exact hs.written r hr
  · rw [hs.kept b fun r hr => hb r hr c (by omega)]
    exact h.kept b fun r hr i hi => hb r hr i (by omega)

/-- A row operation each of whose columns does its step. -/
theorem forCols_columnsDone {f : Nat → Work → Except Fault Work} {w : Work} (ha : ColumnsApart C rows col)
    (h0 : words w.S = St 0)
    (hf : ∀ c v, c < C → ColumnsDone C rows col St out w.mem c v →
      ∃ v', f c v = .ok v' ∧ ColumnStep C rows col St out c v v') :
    ∃ w', forCols f C 0 w = .ok w' ∧ ColumnsDone C rows col St out w.mem C w' := by
  have hloop := forCols_induct (f := f) (fun c v => ColumnsDone C rows col St out w.mem c v) (n := C) (col := 0)
    (columnsDone_zero h0) fun c v _ hc hv => by
      obtain ⟨v', hv', hs⟩ := hf c v (by omega) hv
      exact ⟨v', hv', hv.succ ha (by omega) hs⟩
  rwa [Nat.zero_add] at hloop

/-- What lies outside the rows written is as the row operation found it. -/
theorem ColumnsDone.outside (h : ColumnsDone C rows col St out m C v) (ha : ColumnsApart C rows col) {b : Nat}
    (hb : ∀ r ∈ rows, OutsideRow C r b) : memGet? v.mem b = memGet? m b :=
  h.kept b fun r hr i hi => (hb r hr).outsideBlock (ha r hr i hi).1

end

section
variable {C : Nat} {col : Nat → Nat → Nat} {St : Nat → Fin 16 → Word} {out : Nat → Nat → Fin 12 → Word} {c : Nat}
  {v : Work} {S : Vector Word 16}

/-- A column that writes one block. -/
theorem columnStep_one (r : Nat) (hS : words S = St (c + 1)) :
    ColumnStep C [r] col St out c v ⟨S, writeBlock v.mem C r (col r c) (Vector.ofFn (out r c))⟩ := by
  refine ⟨hS, ?_, fun b hb => memGet?_writeBlock_outside _ (hb r List.mem_cons_self)⟩
  rw [List.forall_mem_singleton]
  exact holdsBlock_writeBlock _ _ _ _ _

/-- A column that writes a block of each of two rows. -/
theorem columnStep_two {r r' : Nat} (hne : r ≠ r') (hc : col r c < C) (hc' : col r' c < C)
    (hS : words S = St (c + 1)) :
    ColumnStep C [r, r'] col St out c v
      ⟨S, writeBlock (writeBlock v.mem C r (col r c) (Vector.ofFn (out r c))) C r' (col r' c)
        (Vector.ofFn (out r' c))⟩ := by
  refine ⟨hS, ?_, fun b hb => ?_⟩
  · rw [List.forall_mem_cons, List.forall_mem_singleton]
    exact ⟨holdsBlock_writeBlock_other (holdsBlock_writeBlock _ _ _ _ _) hc hc' (fun he => hne (Prod.mk.inj he).1) _,
      holdsBlock_writeBlock _ _ _ _ _⟩
  · rw [List.forall_mem_cons, List.forall_mem_singleton] at hb
    exact (memGet?_writeBlock_outside _ hb.2).trans (memGet?_writeBlock_outside _ hb.1)

end

theorem columnsApart_mirror (C : Nat) (rows : List Nat) : ColumnsApart C rows fun _ i => C - 1 - i :=
  fun _ _ i hi => ⟨by dsimp only; omega, fun j hj he => by dsimp only at he; omega⟩

theorem columnsApart_same (C : Nat) (rows : List Nat) : ColumnsApart C rows fun _ i => i :=
  fun _ _ _ hi => ⟨hi, fun _ _ he => he⟩

/-! ### The duplex (R92 to R94) -/

theorem words_reducedTransform (S : Vector Word 16) : words (reducedTransform S) = specRound (words S) :=
  words_rounds 1 S

theorem words_duplex (blk : Fin 12 → Word) (S : Vector Word 16) :
    words (reducedTransform (xorInto (Vector.ofFn blk) S)) = specRound (xorRate blk (words S)) := by
  rw [words_reducedTransform, words_xorInto]

theorem addBlock_ofFn (x y : Fin 12 → Word) :
    addBlock (Vector.ofFn x) (Vector.ofFn y) = Vector.ofFn fun k => x k + y k := by
  refine Vector.ext fun i hi => ?_
  rw [getElem_addBlock, Vector.getElem_ofFn, Vector.getElem_ofFn, Vector.getElem_ofFn]

theorem rate_eq_rateWord (S : Vector Word 16) : rate S = Vector.ofFn (rateWord (words S)) := rfl

theorem rotatedRate_eq_rotatedWord (S : Vector Word 16) : rotatedRate S = Vector.ofFn (rotatedWord (words S)) := by
  refine Vector.ext fun i hi => ?_
  rw [getElem_rotatedRate, Vector.getElem_ofFn]
  rfl

theorem xorBlock_ofFn (x y : Fin 12 → Word) :
    xorBlock (Vector.ofFn x) (Vector.ofFn y) = Vector.ofFn fun k => x k ^^^ y k := by
  refine Vector.ext fun i hi => ?_
  rw [getElem_xorBlock, Vector.getElem_ofFn, Vector.getElem_ofFn, Vector.getElem_ofFn]

/-! ### The row operations (R91 to R94) -/

/-- The state before iteration `c` of `SqueezeRow0` (R91): the last iteration transforms only if the parameter says. -/
def squeezeState (p : Params) (C : Nat) (S : Fin 16 → Word) (c : Nat) : Fin 16 → Word :=
  specRounds (if p.row0Trailing then c else min c (C - 1)) S

theorem specRound_specRounds (n : Nat) (S : Fin 16 → Word) : specRound (specRounds n S) = specRounds (n + 1) S :=
  (Function.iterate_succ_apply' _ _ _).symm

section
variable {p : Params} {C c : Nat}

theorem squeezeState_of_lt (S : Fin 16 → Word) (hc : c < C) : squeezeState p C S c = specRounds c S := by
  rw [squeezeState, Nat.min_eq_left (by omega), ite_self]

theorem squeezeState_succ {S : Vector Word 16} {S0 : Fin 16 → Word} (hc : c < C) (hS : words S = specRounds c S0) :
    words (if p.row0Trailing || decide (c < C - 1) then reducedTransform S else S) =
      squeezeState p C S0 (c + 1) := by
  by_cases hlast : (p.row0Trailing || decide (c < C - 1)) = true
  · have hcount : (if p.row0Trailing then c + 1 else min (c + 1) (C - 1)) = c + 1 := by
      rw [Bool.or_eq_true, decide_eq_true_iff] at hlast
      split
      next => rfl
      next h => have := hlast.resolve_left h; omega
    rw [if_pos hlast, words_reducedTransform, hS, specRound_specRounds, squeezeState, hcount]
  · rw [if_neg hlast, hS, squeezeState]
    rw [Bool.or_eq_true, decide_eq_true_iff, not_or] at hlast
    rw [if_neg hlast.1, Nat.min_eq_right (by omega)]
    congr 1
    omega

theorem squeezeRow0_columns (p : Params) (rout C : Nat) (w : Work) :
    ∃ w', squeezeRow0 p rout C w = .ok w' ∧
      ColumnsDone C [rout] (fun _ i => C - 1 - i) (squeezeState p C (words w.S))
        (fun _ i => rateWord (specRounds i (words w.S))) w.mem C w' := by
  refine forCols_columnsDone (columnsApart_mirror _ _) ?_ fun c v hc hv => ?_
  · rw [squeezeState, Nat.zero_min, ite_self]
    rfl
  · have hS : words v.S = specRounds c (words w.S) := hv.state.trans (squeezeState_of_lt _ hc)
    have hstep : squeezeRow0Step p rout C c v = .ok _ := rfl
    rw [rate_eq_rateWord, hS] at hstep
    exact ⟨_, hstep, columnStep_one rout (squeezeState_succ hc hS)⟩

end

theorem duplexRow1_columns {rin rout C : Nat} {w : Work} {X : Nat → Fin 12 → Word} (hne : rin ≠ rout)
    (hX : HoldsRow w.mem C rin X) :
    ∃ w', duplexRow1 rin rout C w = .ok w' ∧
      ColumnsDone C [rout] (fun _ i => C - 1 - i) (duplexState X (words w.S))
        (fun _ i k => X i k ^^^ rateWord (duplexState X (words w.S) (i + 1)) k) w.mem C w' := by
  refine forCols_columnsDone (columnsApart_mirror _ _) rfl fun c v hc hv => ?_
  have hx := readBlock_of_holdsBlock (hv.holdsBlock (columnsApart_mirror _ _) hc.le (hX c hc) hc
    fun hr => absurd (List.mem_singleton.1 hr) hne)
  have hS : words (reducedTransform (xorInto (Vector.ofFn (X c)) v.S)) = duplexState X (words w.S) (c + 1) := by
    rw [words_duplex, hv.state, duplexState]
  have hstep := duplexRow1Step_eq rin rout C c v
  rw [hx, ok_bind, rate_eq_rateWord, hS, xorBlock_ofFn] at hstep
  exact ⟨_, hstep, columnStep_one rout hS⟩

/-- The state before column `c` of a row operation that absorbs the word-wise sums of two rows (R93, R94). -/
def sumState (X Y : Nat → Fin 12 → Word) (S : Fin 16 → Word) : Nat → Fin 16 → Word :=
  duplexState (fun c k => X c k + Y c k) S

theorem words_sumDuplex {X Y : Nat → Fin 12 → Word} {S0 : Fin 16 → Word} {S : Vector Word 16} {c : Nat}
    (hS : words S = sumState X Y S0 c) :
    words (reducedTransform (xorInto (addBlock (Vector.ofFn (X c)) (Vector.ofFn (Y c))) S)) =
      sumState X Y S0 (c + 1) := by
  rw [addBlock_ofFn, words_duplex, hS, sumState, duplexState]

/-- What a row operation that absorbs two rows writes in column `i` (R93, R94): to row `r₁` the block `A i` XORed with
the rate part, to row* its own block `Y i` XORed with the rotated rate part. -/
def feedbackOut (r₁ : Nat) (A Y : Nat → Fin 12 → Word) (St : Nat → Fin 16 → Word) (r i : Nat) : Fin 12 → Word :=
  if r = r₁ then fun k => A i k ^^^ rateWord (St (i + 1)) k else fun k => Y i k ^^^ rotatedWord (St (i + 1)) k

/-- The column of row `r` that column `i` of `DuplexRowSetup` writes (R93). -/
def setupCol (p : Params) (C rnew r i : Nat) : Nat := if r = rnew then newRowCol p C i else i

theorem columnsApart_setupCol (p : Params) (C rnew : Nat) (rows : List Nat) :
    ColumnsApart C rows (setupCol p C rnew) := by
  intro r _ i hi
  unfold setupCol newRowCol
  refine ⟨by split <;> [split; skip] <;> omega, fun j hj he => ?_⟩
  split at he <;> [split at he; skip] <;> omega

section
variable {prev rowa row C : Nat} {w : Work} {X Y Z : Nat → Fin 12 → Word} {St : Nat → Fin 16 → Word}

theorem feedbackOut_first (A : Nat → Fin 12 → Word) (i : Nat) :
    feedbackOut row A Y St row i = fun k => A i k ^^^ rateWord (St (i + 1)) k := if_pos rfl

theorem feedbackOut_rowa (hne : rowa ≠ row) (A : Nat → Fin 12 → Word) (i : Nat) :
    feedbackOut row A Y St rowa i = fun k => Y i k ^^^ rotatedWord (St (i + 1)) k := if_neg hne

theorem duplexRowSetup_columns {p : Params} (hpa : prev ≠ rowa) (hpn : prev ≠ row) (han : rowa ≠ row)
    (hX : HoldsRow w.mem C prev X) (hY : HoldsRow w.mem C rowa Y) :
    ∃ w', duplexRowSetup p prev rowa row C w = .ok w' ∧
      ColumnsDone C [row, rowa] (setupCol p C row) (sumState X Y (words w.S))
        (feedbackOut row X Y (sumState X Y (words w.S))) w.mem C w' := by
  have ha := columnsApart_setupCol p C row [row, rowa]
  have hcol (i : Nat) : setupCol p C row row i = newRowCol p C i := if_pos rfl
  have hcola (i : Nat) : setupCol p C row rowa i = i := if_neg han
  refine forCols_columnsDone ha rfl fun c v hc hv => ?_
  have hx := readBlock_of_holdsBlock (hv.holdsBlock ha hc.le (hX c hc) hc fun hr => by simp [hpa, hpn] at hr)
  have hy := readBlock_of_holdsBlock ((hcola c) ▸ hv.holdsBlock_next ha hc (r := rowa) (by simp)
    (by rw [hcola]; exact hY c hc))
  have hS := words_sumDuplex hv.state
  have hstep := duplexRowSetupStep_eq p prev rowa row C c v
  have hdone := columnStep_two (col := setupCol p C row) (out := feedbackOut row X Y (sumState X Y (words w.S)))
    (v := v) han.symm (by rw [hcol]; exact newRowCol_lt hc) (by rw [hcola]; exact hc) hS
  rw [hx, ok_bind, hy, ok_bind, duplexRowSetupWork, rate_eq_rateWord, rotatedRate_eq_rotatedWord, hS, xorBlock_ofFn,
    xorBlock_ofFn] at hstep
  rw [hcol, hcola, feedbackOut_first, feedbackOut_rowa han] at hdone
  exact ⟨_, hstep, hdone⟩

/-- What the first update of column `c` of `DuplexRow` leaves, once the blocks are known word by word. -/
theorem duplexRowMem_ofFn {v : Work} {c : Nat} (hS : words v.S = sumState X Y (words w.S) c) (z : Fin 12 → Word) :
    duplexRowMem row C c v (Vector.ofFn (X c)) (Vector.ofFn (Y c)) (Vector.ofFn z) =
      writeBlock v.mem C row c (Vector.ofFn fun k => z k ^^^ rateWord (sumState X Y (words w.S) (c + 1)) k) := by
  rw [duplexRowMem, rate_eq_rateWord, words_sumDuplex hS, xorBlock_ofFn]

/-- `DuplexRow` on different rows `row` and row* (R94). -/
theorem duplexRow_columns_of_ne (hne : rowa ≠ row) (hX : HoldsRow w.mem C prev X) (hY : HoldsRow w.mem C rowa Y)
    (hZ : HoldsRow w.mem C row Z) :
    ∃ w', duplexRow prev rowa row C w = .ok w' ∧
      ColumnsDone C [row, rowa] (fun _ i => i) (sumState X Y (words w.S))
        (feedbackOut row Z Y (sumState X Y (words w.S))) w.mem C w' := by
  have ha := columnsApart_same C [row, rowa]
  refine forCols_columnsDone ha rfl fun c v hc hv => ?_
  have hread {r : Nat} {B : Nat → Fin 12 → Word} (hB : HoldsRow w.mem C r B) : HoldsBlock v.mem C r c (B c) :=
    hv.holdsBlock ha hc.le (hB c hc) hc fun _ i hi => by omega
  have hS := words_sumDuplex hv.state
  have hy' := readBlock_of_holdsBlock (holdsBlock_writeBlock_other (hread hY) hc hc
    (fun he => hne (Prod.mk.inj he).1) (Vector.ofFn fun k => Z c k ^^^ rateWord (sumState X Y (words w.S) (c + 1)) k))
  have hstep := duplexRowStep_eq prev rowa row C c v
  have hdone := columnStep_two (col := fun _ i => i) (out := feedbackOut row Z Y (sumState X Y (words w.S)))
    (v := v) hne.symm hc hc hS
  rw [readBlock_of_holdsBlock (hread hX), ok_bind, readBlock_of_holdsBlock (hread hY), ok_bind,
    readBlock_of_holdsBlock (hread hZ), ok_bind, duplexRowMem_ofFn hv.state, hy', ok_bind, rotatedRate_eq_rotatedWord,
    hS, xorBlock_ofFn] at hstep
  rw [feedbackOut_first, feedbackOut_rowa hne] at hdone
  exact ⟨_, hstep, hdone⟩

/-- `DuplexRow` where `row` and row* are one row: it takes both updates (R95). -/
theorem duplexRow_columns_same (hX : HoldsRow w.mem C prev X) (hY : HoldsRow w.mem C row Y) :
    ∃ w', duplexRow prev row row C w = .ok w' ∧
      ColumnsDone C [row] (fun _ i => i) (sumState X Y (words w.S))
        (fun _ i k => Y i k ^^^ rateWord (sumState X Y (words w.S) (i + 1)) k ^^^
          rotatedWord (sumState X Y (words w.S) (i + 1)) k) w.mem C w' := by
  have ha := columnsApart_same C [row]
  refine forCols_columnsDone ha rfl fun c v hc hv => ?_
  have hread {r : Nat} {B : Nat → Fin 12 → Word} (hB : HoldsRow w.mem C r B) : HoldsBlock v.mem C r c (B c) :=
    hv.holdsBlock ha hc.le (hB c hc) hc fun _ i hi => by omega
  have hS := words_sumDuplex hv.state
  have hstep := duplexRowStep_eq prev row row C c v
  rw [readBlock_of_holdsBlock (hread hX), ok_bind, readBlock_of_holdsBlock (hread hY), ok_bind, ok_bind,
    duplexRowMem_ofFn hv.state, readBlock_writeBlock_same, ok_bind, rotatedRate_eq_rotatedWord, hS,
    xorBlock_ofFn] at hstep
  refine ⟨_, hstep, hS, ?_, fun b hb => ?_⟩
  · rw [List.forall_mem_singleton]
    exact holdsBlock_writeBlock _ _ _ _ _
  · rw [List.forall_mem_singleton] at hb
    exact (memGet?_writeBlock_outside _ hb).trans (memGet?_writeBlock_outside _ hb)

end

/-! ### The commands (R104 to R107) -/

/-- A row command whose checks pass and whose operation answers. -/
theorem exec_row {i : Instr} {s : State} {operand : Bool} {op : Work → Except Fault Work} {w : Work} (hr : Ready s)
    (hi : runsAtOnce i = false) (hg : Geometry s)
    (hplan : planOf Config.params i s =
      checked (checkGeom Config.params s.nRows s.nCols ++ [(operand, .operand)]) (rowEffect op s))
    (hop : operand = true) (hw : op { S := s.S, mem := s.mem } = .ok w) :
    exec i s = .next (finished { s with S := w.S, mem := w.mem }) := by
  refine exec_completes hr hi (hplan.trans (checked_eq_ok.2 ⟨?_, by rw [rowEffect_eq, hw, ok_bind]; rfl⟩))
  rw [firstFailing_append_eq_none, firstFailing_single]
  exact ⟨checkGeom_of_geometry hg, hop⟩

section
variable {s : State} {w : Work} (hr : Ready s) (hg : Geometry s)
include hr hg

theorem exec_sqrow0 {rout : Nat} (ho : rout < s.nRows.toNat)
    (hw : squeezeRow0 Config.params rout s.nCols.toNat { S := s.S, mem := s.mem } = .ok w) :
    exec (.sqrow0 rout) s = .next (finished { s with S := w.S, mem := w.mem }) :=
  exec_row hr rfl hg (planSqrow0_eq _ _ _) (rowOk_of_lt ho) hw

theorem exec_dpxrow1 {rin rout : Nat} (hin : rin < s.nRows.toNat) (ho : rout < s.nRows.toNat) (hne : rin ≠ rout)
    (hw : duplexRow1 rin rout s.nCols.toNat { S := s.S, mem := s.mem } = .ok w) :
    exec (.dpxrow1 rin rout) s = .next (finished { s with S := w.S, mem := w.mem }) :=
  exec_row hr rfl hg (planDpxrow1_eq _ _ _ _) (by simp [rowOk_of_lt hin, rowOk_of_lt ho, hne]) hw

theorem exec_dpxsetup {prev rowa rnew : Nat} (hp : prev < s.nRows.toNat) (ha : rowa < s.nRows.toNat)
    (hn : rnew < s.nRows.toNat) (hpa : prev ≠ rowa) (hpn : prev ≠ rnew) (han : rowa ≠ rnew)
    (hw : duplexRowSetup Config.params prev rowa rnew s.nCols.toNat { S := s.S, mem := s.mem } = .ok w) :
    exec (.dpxsetup prev rowa rnew) s = .next (finished { s with S := w.S, mem := w.mem }) :=
  exec_row hr rfl hg (planDpxsetup_eq _ _ _ _ _)
    (by simp [rowOk_of_lt hp, rowOk_of_lt ha, rowOk_of_lt hn, hpa, hpn, han]) hw

theorem exec_dpxwander {prev rowa row : Nat} (hp : prev < s.nRows.toNat) (ha : rowa < s.nRows.toNat)
    (ho : row < s.nRows.toNat)
    (hw : duplexRow prev rowa row s.nCols.toNat { S := s.S, mem := s.mem } = .ok w) :
    exec (.dpxwander prev rowa row) s = .next (finished { s with S := w.S, mem := w.mem }) :=
  exec_row hr rfl hg (planDpxwander_eq _ _ _ _ _) (by simp [rowOk_of_lt hp, rowOk_of_lt ha, rowOk_of_lt ho]) hw

end

/-- Settles O32: column `C - 1 - i` is written with the rate part after `i` rounds, and the last column transforms `S`
only if the parameter says so. -/
theorem sqrow0FillsTheRow : Obligations.Sqrow0FillsTheRow := by
  intro rout s hr hg ho
  obtain ⟨w, hw, hdone⟩ := squeezeRow0_columns Config.params rout s.nCols.toNat { S := s.S, mem := s.mem }
  refine ⟨w.S, w.mem, exec_sqrow0 hr hg ho hw, ?_, hdone.written rout List.mem_cons_self, fun b hb => ?_⟩
  · rw [hdone.state, squeezeState, Nat.min_eq_right (Nat.sub_le _ _)]
  · exact hdone.outside (columnsApart_mirror _ _) (List.forall_mem_singleton.2 hb)

/-- Settles O33: the input row is not written, so that each column reads its block of it as the command found it. -/
theorem dpxrow1BuildsTheRow : Obligations.Dpxrow1BuildsTheRow := by
  intro rin rout s X hr hg hin ho hne hX
  obtain ⟨w, hw, hdone⟩ := duplexRow1_columns (w := { S := s.S, mem := s.mem }) hne hX
  refine ⟨w.S, w.mem, exec_dpxrow1 hr hg hin ho hne hw, hdone.state, hdone.written rout List.mem_cons_self,
    fun b hb => ?_⟩
  exact hdone.outside (columnsApart_mirror _ _) (List.forall_mem_singleton.2 hb)

/-- Settles O34: each column writes its block of the new row and its own block of row*, which no other column reads. -/
theorem dpxsetupBuildsTheRow : Obligations.DpxsetupBuildsTheRow := by
  intro prev rowa rnew s X Y hr hg hp ha hn hpa hpn han hX hY
  obtain ⟨w, hw, hdone⟩ := duplexRowSetup_columns (p := Config.params) (w := { S := s.S, mem := s.mem }) hpa hpn han hX hY
  refine ⟨w.S, w.mem, exec_dpxsetup hr hg hp ha hn hpa hpn han hw, hdone.state, fun c hc => ⟨?_, ?_⟩,
    fun b hn hb => ?_⟩
  · have hnew := hdone.written rnew (by simp) c hc
    rw [feedbackOut_first, setupCol, if_pos rfl] at hnew
    exact hnew
  · have hback := hdone.written rowa (by simp) c hc
    rw [feedbackOut_rowa han, setupCol, if_neg han] at hback
    exact hback
  · exact hdone.outside (columnsApart_setupCol _ _ _ _)
      (List.forall_mem_cons.2 ⟨hn, List.forall_mem_singleton.2 hb⟩)

/-- Settles O35: each column reads and writes its own column of the rows only; on a row that is both `row` and row* the
second update reads what the first wrote. -/
theorem dpxwanderUpdatesTheRows : Obligations.DpxwanderUpdatesTheRows := by
  intro prev rowa row s X Y Z hr hg hp ha ho hX hY hZ
  by_cases hne : rowa = row
  · subst hne
    obtain ⟨w, hw, hdone⟩ := duplexRow_columns_same (w := { S := s.S, mem := s.mem }) hX hY
    refine ⟨w.S, w.mem, exec_dpxwander hr hg hp ha ho hw, hdone.state, fun c hc => ⟨fun hn => absurd rfl hn, fun _ => ?_⟩,
      fun b hb _ => ?_⟩
    · rw [← holdsBlock_unique (hY c hc) (hZ c hc)]
      exact hdone.written rowa List.mem_cons_self c hc
    · exact hdone.outside (columnsApart_same _ _) (List.forall_mem_singleton.2 hb)
  · obtain ⟨w, hw, hdone⟩ := duplexRow_columns_of_ne (w := { S := s.S, mem := s.mem }) hne hX hY hZ
    refine ⟨w.S, w.mem, exec_dpxwander hr hg hp ha ho hw, hdone.state, fun c hc => ⟨fun _ => ⟨?_, ?_⟩,
      fun he => absurd he hne⟩, fun b hb hba => ?_⟩
    · have hrow := hdone.written row (by simp) c hc
      rwa [feedbackOut_first] at hrow
    · have hback := hdone.written rowa (by simp) c hc
      rwa [feedbackOut_rowa hne] at hback
    · exact hdone.outside (columnsApart_same _ _)
        (List.forall_mem_cons.2 ⟨hb, List.forall_mem_singleton.2 hba⟩)

end Sys2Proof.Proofs
end

section
/-! `SETUP` as the unit commands of its schedule (R96, R104 to R106, R108). -/

namespace Sys2Proof.Proofs

open Sys2Proof.Machine Sys2Proof.Claims

/-! ### A state with the work of a procedure stored -/

/-- The state a command leaves whose effect on `s` is to store the work `w`. -/
def worked (w : Work) (s : State) : State := finished { s with S := w.S, mem := w.mem }

section
variable {s : State} (w : Work)

theorem ready_worked (hr : Ready s) : Ready (worked w s) := by
  obtain ⟨hrun, herr⟩ := hr
  exact ⟨hrun, herr⟩

theorem geometry_worked (hg : Geometry s) : Geometry (worked w s) := hg

end

/-! ### The unit commands of Setup (R96) -/

/-- Row* is never the previous row: it lies in the last window, and where that has just been opened it is row 0. -/
theorem OnSchedule.prev_ne_rowa {c : Sched} (h : OnSchedule c) : c.prev ≠ c.rowa := by
  have hle := h.window_le
  have hsucc := h.prev_succ
  have hlt := h.rowa_lt
  rcases Nat.eq_or_lt_of_le hle with heq | hgt
  · have hrowa := h.rowa_eq
    rw [← heq, sub_self, zero_mul, Int.zero_emod] at hrowa
    have hpos := h.window_pos
    have heven := h.window_even
    omega
  · omega

/-- The unit command that builds row `n + 2` (R96, R106). -/
def setupCommand (n : Nat) : Instr := .dpxsetup (schedule n).prev (schedule n).rowa (schedule n).row

theorem setupCommand_eq (n : Nat) :
    setupCommand n = .dpxsetup (schedAfter n).prev (schedAfter n).rowa (schedAfter n).row := by
  rw [setupCommand, schedule_eq_schedAfter]

theorem setupCommands_eq (R : Nat) :
    setupCommands R = .sqrow0 0 :: .dpxrow1 0 1 :: (List.range' 0 (R - 2)).map setupCommand := by
  rw [← List.range_eq_range']
  rfl

theorem exec_setupCommand {k : Nat} {s : State} {w : Work} (hr : Ready s) (hg : Geometry s)
    (hk : k + 2 < s.nRows.toNat)
    (hw : duplexRowSetup Config.params (schedAfter k).prev (schedAfter k).rowa (schedAfter k).row s.nCols.toNat
      { S := s.S, mem := s.mem } = .ok w) :
    exec (setupCommand k) s = .next (worked w s) := by
  have hon := onSchedule_schedAfter k
  have hrow := schedAfter_row k
  have hprev := hon.prev_succ
  have hrowa := hon.rowa_lt_row
  rw [setupCommand_eq]
  exact exec_dpxsetup hr hg (by omega) (by omega) (by omega) hon.prev_ne_rowa (by omega) (by omega) hw

/-- The commands that build `n` rows from row `k + 2` leave the `S` and the storage that the loop of Setup leaves. -/
theorem execAll_setupRows {n k : Nat} {s : State} {x : Work × Sched} (hr : Ready s) (hg : Geometry s)
    (hn : k + 2 + n ≤ s.nRows.toNat)
    (h : setupLoop Config.params s.nCols.toNat n (schedAfter k) { S := s.S, mem := s.mem } = .ok x) :
    ∃ u, execAll ((List.range' k n).map setupCommand) s = .next u ∧ u.S = x.1.S ∧ u.mem = x.1.mem := by
  induction n generalizing k s with
  | zero => cases h; exact ⟨s, rfl, rfl, rfl⟩
  | succ n ih =>
    rw [setupLoop_succ, bind_eq_ok] at h
    obtain ⟨w, hw, h⟩ := h
    rw [← schedAfter_succ] at h
    rw [List.range'_succ, List.map_cons, execAll_cons (exec_setupCommand hr hg (by omega) hw)]
    exact ih (s := worked w s) (ready_worked w hr) (geometry_worked w hg) (by change _ ≤ s.nRows.toNat; omega) h

theorem exec_setup {s : State} {x : Work × Sched} (hr : Ready s) (hp : Parameters 1 s)
    (hx : setupProc Config.params s.nRows.toNat s.nCols.toNat { S := s.S, mem := s.mem } = .ok x) :
    exec .setup s = .next (finished (storeSched x.2 (storeWork x.1 s))) :=
  exec_completes hr rfl ((planSetup_eq _ _).trans (checked_eq_ok.2
    ⟨checkParams_of_parameters hp, by rw [hx, ok_bind]⟩))

/-- Settles O37: Setup is its row operations in order, and each unit command is one of them. -/
theorem setupIsItsUnitCommands : Obligations.SetupIsItsUnitCommands := by
  intro s hr hp
  obtain ⟨-, hg, hpow⟩ := id hp
  have hR := two_le_of_power hpow
  obtain ⟨w, hw, -, -⟩ := setupProc_completes (p := Config.params) (C := s.nCols.toNat)
    (w := { S := s.S, mem := s.mem }) hR
  have hunits := hw
  rw [setupProc_eq, bind_eq_ok] at hunits
  obtain ⟨w1, h1, hunits⟩ := hunits
  obtain ⟨w2, h2, h3⟩ := bind_eq_ok.1 hunits
  have hrow0 : exec (.sqrow0 0) s = .next (worked w1 s) := exec_sqrow0 hr hg (by omega) h1
  have hrow1 : exec (.dpxrow1 0 1) (worked w1 s) = .next (worked w2 (worked w1 s)) :=
    exec_dpxrow1 (ready_worked w1 hr) (geometry_worked w1 hg) (by change 0 < s.nRows.toNat; omega)
      (by change 1 < s.nRows.toNat; omega) (by decide) h2
  obtain ⟨u, hu, hS, hmem⟩ := execAll_setupRows (k := 0) (s := worked w2 (worked w1 s))
    (ready_worked w2 (ready_worked w1 hr)) (geometry_worked w2 (geometry_worked w1 hg))
    (by change 0 + 2 + (s.nRows.toNat - 2) ≤ s.nRows.toNat; omega) h3
  refine ⟨_, u, exec_setup hr hp hw, ?_, hS, hmem⟩
  rw [setupCommands_eq, execAll_cons hrow0, execAll_cons hrow1, hu]

end Sys2Proof.Proofs
end

section
/-! Wandering as a walk over a list of rows: the passes visit the rows the claims list, and a walk over held rows answers
(R94, R98). -/

namespace Sys2Proof.Proofs

open Sys2Proof.Machine Sys2Proof.Claims

/-! ### The rows of a pass (R98, R147) -/

/-- The row a pass with the given `STEP` visits after `j` visits (R98). -/
def visitRow (R : Nat) (stride : Int) (j : Nat) : Nat := ((j : Int) * stride % (R : Int)).toNat

section
variable {R : Nat} {stride : Int} (hR : 0 < R)
include hR

theorem visitRow_cast (j : Nat) : (visitRow R stride j : Int) = (j : Int) * stride % (R : Int) :=
  Int.toNat_of_nonneg (Int.emod_nonneg _ (by omega))

theorem visitRow_lt (j : Nat) : visitRow R stride j < R := by
  have hcast := visitRow_cast (stride := stride) hR j
  have hlt := Int.emod_lt_of_pos ((j : Int) * stride) (show (0 : Int) < R by omega)
  omega

theorem visitRow_succ (j : Nat) :
    (((visitRow R stride j : Nat) : Int) + stride) % (R : Int) = (visitRow R stride (j + 1) : Nat) := by
  rw [visitRow_cast hR, visitRow_cast hR, Int.emod_add_emod]
  congr 1
  push_cast
  ring

/-- Where `STEP` and `R` have no common factor, `R` visits go by before row 0 comes up again. -/
theorem visitRow_eq_zero (hs : IsCoprime (R : Int) stride) {j : Nat} (h : visitRow R stride j = 0) : R ∣ j := by
  have hcast := visitRow_cast (stride := stride) hR j
  rw [h] at hcast
  exact Int.natCast_dvd_natCast.1 (hs.dvd_of_dvd_mul_right (Int.dvd_of_emod_eq_zero hcast.symm))

end

/-- How many rows pass `tau` visits: all, except that with two rows an odd pass stays at row 0 (R147). -/
def passLength (R tau : Nat) : Nat := if tau % 2 = 1 ∧ R = 2 then 1 else R

/-- With a power of two of rows above 2, or in an even pass, `STEP` is odd (R98). -/
theorem coprime_wanderStride {R k tau : Nat} (hk : R = 2 ^ (k + 1)) (h : ¬ (tau % 2 = 1 ∧ R = 2)) :
    IsCoprime (R : Int) (wanderStride R tau) := by
  have hodd : Odd (wanderStride R tau) := by
    rw [Int.odd_iff, wanderStride]
    split
    next => rfl
    next ht =>
      obtain ⟨k, rfl⟩ : ∃ k', k = k' + 1 := Nat.exists_eq_succ_of_ne_zero fun h0 => h ⟨by omega, by rw [hk, h0]; rfl⟩
      have hhalf : R / 2 = 2 * 2 ^ k := by rw [hk, pow_succ, Nat.mul_div_cancel _ (by decide), pow_succ, Nat.mul_comm]
      omega
  have hcop : IsCoprime ((2 : Int) ^ (k + 1)) (wanderStride R tau) :=
    IsCoprime.pow_left (Int.isCoprime_two_left.2 hodd)
  rwa [show (R : Int) = 2 ^ (k + 1) by rw [hk, Nat.cast_pow]; rfl]

theorem visitRow_backwards {R j : Nat} (hj : j < R) : visitRow R (-1) j = (R - j) % R := by
  have hmod : ((j : Int) * -1) % (R : Int) = ((R - j : Nat) : Int) % R := by
    rw [← Int.add_emod_right]
    congr 1
    omega
  rw [visitRow, hmod]
  rfl

theorem visitRow_forwards {R j : Nat} (hR : 2 ≤ R) :
    visitRow R (((R / 2 : Nat) : Int) - 1) j = j * (R / 2 - 1) % R := by
  have hcast : ((R / 2 : Nat) : Int) - 1 = ((R / 2 - 1 : Nat) : Int) := by omega
  rw [visitRow, hcast]
  rfl

/-- The rows the claims list for a pass are the rows it visits. -/
theorem passRows_eq {R : Nat} (hR : 2 ≤ R) (tau : Nat) :
    passRows R tau = (List.range' 0 (passLength R tau)).map (visitRow R (wanderStride R tau)) := by
  rw [← List.range_eq_range', passRows, passLength, wanderStride]
  by_cases ht : tau % 2 = 0
  · rw [if_pos ht, if_pos ht, if_neg (by omega)]
    exact List.map_congr_left fun j hj => (visitRow_backwards (List.mem_range.1 hj)).symm
  · rw [if_neg ht, if_neg ht]
    by_cases h2 : R = 2
    · subst h2
      rw [if_pos rfl, if_pos ⟨by omega, rfl⟩]
      rfl
    · rw [if_neg h2, if_neg fun h => h2 h.2]
      exact List.map_congr_left fun j _ => (visitRow_forwards hR).symm

theorem passRows_lt {R tau r : Nat} (hR : 2 ≤ R) (h : r ∈ passRows R tau) : r < R := by
  rw [passRows_eq hR, List.mem_map] at h
  obtain ⟨j, -, rfl⟩ := h
  exact visitRow_lt (by omega) j

/-! ### Walks -/

/-- Where a walk stands: what it has left, its last row* and the last row it visited. -/
structure Walk where
  work : Work
  rowa : Nat
  prev : Nat

/-- The visits of a list of rows in order, row* each time the remainder of `S[0]` (R98). -/
def walk (R C : Nat) : List Nat → Walk → Except Fault Walk
  | [], x => .ok x
  | r :: rs, x =>
    (duplexRow x.prev (x.work.S[0].toNat % R) r C x.work).bind fun w => walk R C rs ⟨w, x.work.S[0].toNat % R, r⟩

theorem bind_assoc {α β γ : Type} (r : Except Fault α) (f : α → Except Fault β) (g : β → Except Fault γ) :
    (r.bind f).bind g = r.bind fun x => (f x).bind g := by
  cases r <;> rfl

theorem walk_append (R C : Nat) (l l' : List Nat) (x : Walk) :
    walk R C (l ++ l') x = (walk R C l x).bind (walk R C l') := by
  induction l generalizing x with
  | nil => rfl
  | cons r rs ih => simp only [List.cons_append, walk, bind_assoc, ih]

/-- The walk on which a pass stands. -/
def walkOf (x : Work × Tour) : Walk := ⟨x.1, x.2.rowa, x.2.prev⟩

/-- A walk that has come back to row 0, as a pass stands on it. -/
def tourOf (u : Tour) (y : Walk) : Work × Tour := (y.work, { u with row := 0, rowa := y.rowa, prev := y.prev })

/-- The visit of row `j` of a pass. -/
theorem wanderVisit_visitRow {R C j : Nat} {x : Work × Tour} (hR : 0 < R) (hrow : x.2.row = visitRow R x.2.stride j) :
    wanderVisit R C x =
      (duplexRow x.2.prev (visitRowa R x) (visitRow R x.2.stride j) C x.1).bind fun w =>
        .ok (w, { x.2 with rowa := visitRowa R x, prev := visitRow R x.2.stride j,
                           row := visitRow R x.2.stride (j + 1) }) := by
  rw [wanderVisit_eq, visitTour, hrow, visitRow_succ hR]
  rfl

/-- The rest of a pass from its row `j`, which comes back to row 0 after `n + 1` more visits and not before. -/
theorem wanderPass_eq_walk {R C n fuel j : Nat} {x : Work × Tour} (hR : 0 < R)
    (hrow : x.2.row = visitRow R x.2.stride j) (hfuel : n < fuel)
    (hne : ∀ i, j < i → i < j + (n + 1) → visitRow R x.2.stride i ≠ 0)
    (hzero : visitRow R x.2.stride (j + (n + 1)) = 0) :
    wanderPass R C fuel x =
      (walk R C ((List.range' j (n + 1)).map (visitRow R x.2.stride)) (walkOf x)).bind fun y => .ok (tourOf x.2 y) := by
  induction n generalizing fuel j x with
  | zero =>
    obtain ⟨fuel, rfl⟩ := Nat.exists_eq_succ_of_ne_zero (Nat.ne_of_gt hfuel)
    rw [wanderPass_succ, wanderVisit_visitRow hR hrow, hzero, List.range'_succ, List.range'_zero, List.map_cons, walk]
    simp only [bind_assoc, ok_bind, if_true]
    rfl
  | succ n ih =>
    obtain ⟨fuel, rfl⟩ := Nat.exists_eq_succ_of_ne_zero (Nat.ne_of_gt (Nat.zero_lt_of_lt hfuel))
    rw [wanderPass_succ, wanderVisit_visitRow hR hrow, List.range'_succ, List.map_cons, walk]
    simp only [bind_assoc, ok_bind, if_neg (hne (j + 1) (by omega) (by omega))]
    congr 1
    funext w
    exact ih rfl (by omega) (fun i h1 h2 => hne i (by omega) (by omega))
      (by rwa [show j + 1 + (n + 1) = j + (n + 1 + 1) by omega])

/-- A pass that starts at row 0 visits the rows the claims list and ends at row 0. -/
theorem wanderPass_eq {R C k tau : Nat} (hk : R = 2 ^ (k + 1)) {x : Work × Tour} (hrow : x.2.row = 0)
    (hs : x.2.stride = wanderStride R tau) :
    wanderPass R C R x = (walk R C (passRows R tau) (walkOf x)).bind fun y => .ok (tourOf x.2 y) := by
  have hR : 2 ≤ R := two_le_of_power ⟨k + 1, Nat.succ_pos k, hk⟩
  have h0 : x.2.row = visitRow R x.2.stride 0 := by rw [hrow, visitRow, Nat.cast_zero, zero_mul]; rfl
  rw [passRows_eq hR, ← hs]
  by_cases h : tau % 2 = 1 ∧ R = 2
  · rw [passLength, if_pos h]
    refine wanderPass_eq_walk (by omega) h0 (by omega) (fun i h1 h2 => by omega) ?_
    obtain ⟨ht, rfl⟩ := h
    rw [hs, wanderStride, if_neg (by omega)]
    rfl
  · obtain ⟨n, rfl⟩ : ∃ n, R = n + 1 := ⟨R - 1, by omega⟩
    have hcop := coprime_wanderStride hk h
    rw [passLength, if_neg h]
    refine wanderPass_eq_walk (by omega) h0 (by omega) (fun i h1 h2 hz => ?_) ?_
    · rw [hs] at hz
      have := Nat.le_of_dvd (by omega) (visitRow_eq_zero (by omega) hcop hz)
      omega
    · rw [visitRow, Nat.zero_add, Int.mul_emod_right]
      rfl

/-- Where Wandering of `T` passes leaves the loop variables, once its walk is done (R98). -/
def finalTour (R T : Nat) (y : Walk) : Tour :=
  { row := 0, prev := y.prev, rowa := y.rowa, stride := wanderStride R T, tau := T }

/-- The first of several passes is a walk over its rows. -/
theorem wanderPasses_succ_eq {R C k tau : Nat} (hk : R = 2 ^ (k + 1)) (n : Nat) {x : Work × Tour}
    (hrow : x.2.row = 0) :
    wanderPasses R C (n + 1) tau x = (walk R C (passRows R tau) (walkOf x)).bind fun y =>
      wanderPasses R C n (tau + 1) (y.work, finalTour R tau y) := by
  have hpass := wanderPass_eq (C := C) (tau := tau)
    (x := (x.1, { x.2 with tau := tau, stride := wanderStride R tau })) hk hrow rfl
  rw [wanderPasses_succ]
  exact (congrArg (Except.bind · _) hpass).trans (bind_assoc _ _ _)

/-- The passes `tau`, `tau + 1`, … are one walk over their rows. -/
theorem wanderPasses_eq {R C k n tau : Nat} (hk : R = 2 ^ (k + 1)) {x : Work × Tour} (hrow : x.2.row = 0) :
    wanderPasses R C (n + 1) tau x =
      (walk R C ((List.range' tau (n + 1)).flatMap (passRows R)) (walkOf x)).bind fun y =>
        .ok (y.work, finalTour R (tau + n) y) := by
  induction n generalizing tau x with
  | zero =>
    rw [wanderPasses_succ_eq hk 0 hrow, List.range'_succ, List.range'_zero, List.flatMap_cons, List.flatMap_nil,
      List.append_nil]
    rfl
  | succ n ih =>
    rw [wanderPasses_succ_eq hk (n + 1) hrow, List.range'_succ, List.flatMap_cons, walk_append, bind_assoc]
    congr 1
    funext y
    rw [ih rfl, show tau + 1 + n = tau + (n + 1) by omega]
    rfl

theorem walkRows_eq (R T : Nat) : walkRows R T = (List.range' 1 T).flatMap (passRows R) := by
  rw [walkRows, List.range'_eq_map_range, List.flatMap_map]
  simp only [Nat.add_comm 1]

/-- Wandering is the walk over the rows the claims list (R98, R147). -/
theorem wanderProc_eq {T R C k prev : Nat} {w : Work} (hk : R = 2 ^ (k + 1)) (hT : 0 < T) :
    wanderProc T R C prev w = (walk R C (walkRows R T) ⟨w, 0, prev⟩).bind fun y => .ok (y.work, finalTour R T y) := by
  obtain ⟨n, rfl⟩ := Nat.exists_eq_succ_of_ne_zero (Nat.ne_of_gt hT)
  rw [wanderProc, wanderPasses_eq hk rfl, walkRows_eq, Nat.add_comm 1 n]
  rfl

/-! ### A walk over held rows answers (R94) -/

theorem duplexRow_completes {R C prev rowa row : Nat} {w : Work} (hp : prev < R) (ha : rowa < R) (hr : row < R)
    (hw : RowsHeld w.mem C R) :
    ∃ w', duplexRow prev rowa row C w = .ok w' ∧ Writes (MatrixBlock (R * C)) w.mem w'.mem := by
  obtain ⟨w', hw', hwr⟩ := forCols_induct (f := duplexRowStep prev rowa row C) (n := C) (col := 0)
    (fun _ v => Writes (MatrixBlock (R * C)) w.mem v.mem) (Writes.refl _) fun c v _ hc hv => by
      have hread {r : Nat} {m : Memory} (hr : r < R) (hm : Writes (MatrixBlock (R * C)) w.mem m) :
          ∃ x, readBlock m C r c = .ok x :=
        readBlock_of_held (hm.held (held_block_of_row (hw.row hr) (by omega)))
      obtain ⟨x, hx⟩ := hread hp hv
      obtain ⟨y, hy⟩ := hread ha hv
      obtain ⟨z, hz⟩ := hread hr hv
      have hmem : Writes (MatrixBlock (R * C)) w.mem (duplexRowMem row C c v x y z) :=
        hv.trans (writeBlock_writes _ _ hr (by omega))
      obtain ⟨y', hy'⟩ := hread ha hmem
      rw [duplexRowStep_eq, hx, ok_bind, hy, ok_bind, hz, ok_bind, hy', ok_bind]
      exact ⟨_, rfl, hmem.trans (writeBlock_writes _ _ ha (by omega))⟩
  exact ⟨w', hw', hwr⟩

theorem walk_completes {R C : Nat} {l : List Nat} {x : Walk} (hl : ∀ r ∈ l, r < R) (hp : x.prev < R) (ha : x.rowa < R)
    (hw : RowsHeld x.work.mem C R) :
    ∃ y, walk R C l x = .ok y ∧ y.prev < R ∧ y.rowa < R ∧ Writes (MatrixBlock (R * C)) x.work.mem y.work.mem := by
  induction l generalizing x with
  | nil => exact ⟨x, rfl, hp, ha, Writes.refl _⟩
  | cons r rs ih =>
    obtain ⟨hr, hrs⟩ := List.forall_mem_cons.1 hl
    have hmod : x.work.S[0].toNat % R < R := Nat.mod_lt _ (by omega)
    obtain ⟨w, hw', hwr⟩ := duplexRow_completes hp hmod hr hw
    obtain ⟨y, hy, hyp, hya, hyw⟩ := ih (x := ⟨w, x.work.S[0].toNat % R, r⟩) hrs hr hmod (hwr.held hw)
    exact ⟨y, by rw [walk, hw', ok_bind, hy], hyp, hya, hwr.trans hyw⟩

theorem walkRows_lt {R T r : Nat} (hR : 2 ≤ R) (h : r ∈ walkRows R T) : r < R := by
  rw [walkRows_eq, List.mem_flatMap] at h
  obtain ⟨tau, -, hr⟩ := h
  exact passRows_lt hR hr

theorem exists_eq_two_pow_succ {n : Nat} (h : ∃ k, 0 < k ∧ n = 2 ^ k) : ∃ k, n = 2 ^ (k + 1) := by
  obtain ⟨k, hk, rfl⟩ := h
  exact ⟨k - 1, by rw [Nat.sub_add_cancel hk]⟩

/-- Wandering over a held matrix answers: its walk does. -/
theorem wanderProc_completes {T R C prev : Nat} {w : Work} (hpow : ∃ k, 0 < k ∧ R = 2 ^ k) (hT : 0 < T)
    (hp : prev < R) (hw : RowsHeld w.mem C R) :
    ∃ y, walk R C (walkRows R T) ⟨w, 0, prev⟩ = .ok y ∧ wanderProc T R C prev w = .ok (y.work, finalTour R T y) ∧
      y.prev < R ∧ y.rowa < R ∧ Writes (MatrixBlock (R * C)) w.mem y.work.mem := by
  have hR := two_le_of_power hpow
  obtain ⟨k, hk⟩ := exists_eq_two_pow_succ hpow
  obtain ⟨y, hy, hyp, hya, hyw⟩ := walk_completes (x := ⟨w, 0, prev⟩) (fun r => walkRows_lt (T := T) hR) hp
    (by change 0 < R; omega) hw
  exact ⟨y, hy, by rw [wanderProc_eq hk hT, hy, ok_bind], hyp, hya, hyw⟩

/-! ### The command (R98, R109) -/

theorem toNat_pos_of_toInt_pos {x : Word} (h : 0 < x.toInt) : 0 < x.toNat := by
  refine Nat.pos_of_ne_zero fun h0 => ?_
  rw [BitVec.eq_of_toNat_eq (y := 0#64) h0] at h
  exact absurd h (by decide)

theorem toNat_natReg_of_lt {n : Nat} {x : Word} (h : n < x.toNat) : (natReg n).toNat = n :=
  Nat.mod_eq_of_lt (h.trans x.isLt)

/-- `STEP` of a pass in two's complement (R18, R98). -/
theorem intReg_wanderStride (R T : Nat) :
    intReg (wanderStride R T) = if T % 2 = 0 then -1 else BitVec.ofNat 64 (R / 2) - 1 := by
  rw [wanderStride]
  split
  · rfl
  · have hneg : BitVec.ofInt 64 (-1) = -1 := by decide
    rw [intReg, sub_eq_add_neg, BitVec.ofInt_add, BitVec.ofInt_natCast, hneg, BitVec.sub_eq_add_neg]

/-- Writes to blocks of the matrix leave everything outside it alone. -/
theorem sameOutside_of_writes {n : Nat} {m m' : Memory} (h : Writes (MatrixBlock n) m m') :
    SameOutside m m' 0x10000 (96 * n) := fun b hb => h.memGet?_eq <| by
  rintro base len ⟨rfl, j, hj, rfl⟩
  have hM : mBase = 0x10000 := rfl
  omega

theorem exec_wander {s : State} {x : Work × Tour} (hr : Ready s) (hp : Parameters s.timeCost s)
    (hprev : s.prev.toNat < s.nRows.toNat)
    (hx : wanderProc s.timeCost.toNat s.nRows.toNat s.nCols.toNat s.prev.toNat { S := s.S, mem := s.mem } = .ok x) :
    exec .wander s = .next (finished (storeTour x.2 (storeWork x.1 s))) := by
  refine exec_completes hr rfl ((planWander_eq _ _).trans (checked_eq_ok.2 ⟨?_, by rw [hx, ok_bind]⟩))
  rw [firstFailing_append_eq_none, firstFailing_single]
  exact ⟨checkParams_of_parameters hp, decide_eq_true hprev⟩

/-- Settles O38: the passes are one walk over rows of the matrix, which answers where the matrix is held. -/
theorem wanderCompletes : Obligations.WanderCompletes := by
  intro s hr hp hprev hheld
  obtain ⟨ht, -, hpow⟩ := id hp
  obtain ⟨y, -, hy, hyp, hya, hyw⟩ := wanderProc_completes (w := { S := s.S, mem := s.mem }) hpow
    (toNat_pos_of_toInt_pos ht) hprev hheld
  refine ⟨y.work.S, y.work.mem, natReg y.prev, natReg y.rowa, ?_, ?_, ?_, hyw.held hheld, sameOutside_of_writes hyw⟩
  · rw [exec_wander hr hp hprev hy, storeTour, finalTour, intReg_wanderStride, natReg_toNat]
    rfl
  · rwa [toNat_natReg_of_lt hyp]
  · rwa [toNat_natReg_of_lt hya]

/-- A walk over rows of the matrix is what the host's walk by hand leaves. -/
theorem walkByHand_eq {l : List Nat} {rowa prev : Nat} {s : State} {y : Walk} (hr : Ready s) (hg : Geometry s)
    (hl : ∀ r ∈ l, r < s.nRows.toNat) (hp : prev < s.nRows.toNat)
    (h : walk s.nRows.toNat s.nCols.toNat l ⟨{ S := s.S, mem := s.mem }, rowa, prev⟩ = .ok y) :
    ∃ u, walkByHand s.nRows.toNat l rowa prev s = .next (u, y.rowa, y.prev) ∧ u.S = y.work.S ∧ u.mem = y.work.mem := by
  induction l generalizing rowa prev s with
  | nil => cases h; exact ⟨s, rfl, rfl, rfl⟩
  | cons r rs ih =>
    obtain ⟨hrow, hrs⟩ := List.forall_mem_cons.1 hl
    rw [walk, bind_eq_ok] at h
    obtain ⟨w, hw, h⟩ := h
    have hmod : s.S[0].toNat % s.nRows.toNat < s.nRows.toNat := Nat.mod_lt _ (by omega)
    have hexec : exec (.dpxwander prev (s.S[0].toNat % s.nRows.toNat) r) s = .next (worked w s) :=
      exec_dpxwander hr hg hp hmod hrow hw
    rw [walkByHand, hexec]
    exact ih (s := worked w s) (ready_worked w hr) (geometry_worked w hg) hrs hrow h

/-- Settles O39: each visit of the walk is one `DPXWANDER`. -/
theorem wanderIsTheWalkByHand : Obligations.WanderIsTheWalkByHand := by
  intro s hr hp hprev hheld
  obtain ⟨ht, hg, hpow⟩ := id hp
  obtain ⟨y, hwalk, hy, -, -, -⟩ := wanderProc_completes (w := { S := s.S, mem := s.mem }) hpow
    (toNat_pos_of_toInt_pos ht) hprev hheld
  obtain ⟨u, hu, hS, hmem⟩ := walkByHand_eq hr hg (fun r => walkRows_lt (two_le_of_power hpow)) hprev hwalk
  exact ⟨_, u, y.rowa, y.prev, exec_wander hr hp hprev hy, hu, hS, hmem, rfl, rfl⟩

end Sys2Proof.Proofs
end

section
/-! `DERIVE` runs whatever M and PADBUF held before, and is its unit commands one after another (R90, R97, R99, R100,
R110). -/

namespace Sys2Proof.Proofs

open Sys2Proof.Machine Sys2Proof.Claims

/-! ### A derivation answers (R97, R100) -/

theorem absorbBlocks_completes {n blk : Nat} {w : Work} (h : Held w.mem (padBase + 64 * blk) (64 * n)) :
    ∃ w', absorbBlocks n blk w = .ok w' := by
  induction n generalizing blk w with
  | zero => exact ⟨w, rfl⟩
  | succ n ih =>
    obtain ⟨b, hb⟩ : ∃ b, readSafeBlock w.mem blk = .ok b := readWords_of_held fun k hk => h k (by omega)
    obtain ⟨w', hw'⟩ := ih (blk := blk + 1) (w := { w with S := absorbSafe b w.S }) fun k hk => by
      have hheld := h (64 + k) (by omega)
      rwa [show padBase + 64 * (blk + 1) + k = padBase + 64 * blk + (64 + k) by omega]
    exact ⟨w', by rw [absorbBlocks_succ, hb, ok_bind, hw']⟩

theorem held_memWrite (m : Memory) (base : Nat) (bs : List Byte) : Held (memWrite m base bs) base bs.length :=
  fun k hk => by rw [memGet?_memWrite_inside hk]; rfl

theorem held_padProc (outLen : Word) (pwd salt : List Byte) (t R C : Word) (m : Memory) :
    Held (padProc outLen pwd salt t R C m) padBase (64 * padBlocks pwd.length salt.length) := by
  have h := held_memWrite m padBase (padInput outLen pwd salt t R C)
  rwa [length_padInput] at h

/-- Setup ends with a row of the matrix as the previous one. -/
theorem schedAfter_prev_lt {R : Nat} (hpow : ∃ k, 0 < k ∧ R = 2 ^ k) : (schedAfter (R - 2)).prev < R := by
  have hR := two_le_of_power hpow
  obtain ⟨k, -, hk⟩ := hpow
  obtain ⟨-, hprev, -, -⟩ := schedAfter_pow hR hk
  omega

theorem finalProc_completes {outLen rowa C : Nat} {w : Work} (h : Held w.mem (blockAddr C rowa 0) 96) :
    ∃ x, finalProc outLen rowa C w = .ok x ∧ x.2.mem = w.mem := by
  obtain ⟨blk, hblk⟩ := readBlock_of_held h
  exact ⟨_, by rw [finalProc_eq, hblk, ok_bind], rfl⟩

/-- What a derivation leaves with `b` safe blocks of padded input, time cost `T` and `R` rows of `C` columns: the loop
variables where Setup and Wandering end, the padded input and the matrix held. -/
structure DerivationEnd (b T R C : Nat) (d : Derived) : Prop where
  nBlk : d.nBlk = b
  sched : d.sched = schedAfter (R - 2)
  tour : ∃ y, d.tour = finalTour R T y ∧ y.prev < R ∧ y.rowa < R
  padded : Held d.work.mem padBase (64 * b)
  rows : RowsHeld d.work.mem C R

/-- A derivation with a power of two of rows answers, whatever the storage held. -/
theorem deriveProc_completes {p : Params} {outLen : Word} {pwd salt : List Byte} {t R C : Word}
    (hpow : ∃ k, 0 < k ∧ R.toNat = 2 ^ k) (ht : 0 < t.toNat) (hC : 0 < C.toNat) (m : Memory) :
    ∃ d, deriveProc p outLen pwd salt t R C m = .ok d ∧
      DerivationEnd (padBlocks pwd.length salt.length) t.toNat R.toNat C.toNat d := by
  have hR := two_le_of_power hpow
  have hpad := held_padProc outLen pwd salt t R C m
  obtain ⟨w1, h1⟩ := absorbBlocks_completes (blk := 0)
    (w := { S := initState p, mem := padProc outLen pwd salt t R C m }) hpad
  have hpad1 : Held w1.mem padBase (64 * padBlocks pwd.length salt.length) := by rw [absorbBlocks_mem h1]; exact hpad
  obtain ⟨w2, h2, hrows, hw2⟩ := setupProc_completes (p := p) (C := C.toNat) (w := w1) hR
  obtain ⟨y, -, h3, hyp, hya, hw3⟩ := wanderProc_completes (T := t.toNat) (prev := (schedAfter (R.toNat - 2)).prev)
    hpow ht (schedAfter_prev_lt hpow) hrows
  have hrows' : RowsHeld y.work.mem C.toNat R.toNat := hw3.held hrows
  obtain ⟨x, h4, hx⟩ := finalProc_completes (outLen := outLen.toNat) (rowa := (finalTour R.toNat t.toNat y).rowa)
    (held_block_of_row (hrows'.row hya) hC)
  refine ⟨_, by rw [deriveProc_eq, h1, ok_bind, h2, ok_bind, h3, ok_bind, h4, ok_bind], rfl, rfl,
    ⟨y, rfl, hyp, hya⟩, ?_, ?_⟩
  · rw [hx]
    exact hw3.held (hw2.held hpad1)
  · rw [hx]
    exact hrows'

/-! ### The command (R110) -/

theorem exec_derive {s : State} {pwd salt : List Byte} {d : Derived} (hr : Ready s) (hp : Parameters s.timeCost s)
    (hfit : PadFits s) (hout : s.outLen.toNat ≤ Config.params.outMax)
    (hpwd : readBytes s.mem pwdBase s.pwdLen.toNat = .ok pwd)
    (hsalt : readBytes s.mem saltBase s.saltLen.toNat = .ok salt)
    (hd : deriveProc Config.params s.outLen pwd salt s.timeCost s.nRows s.nCols s.mem = .ok d) :
    exec .derive s = .next (finished { storeDerived d s with mem := memWrite d.work.mem outBase d.out }) := by
  refine exec_completes hr rfl ((planDerive_eq _ _).trans (checked_eq_ok.2
    ⟨?_, by rw [hpwd, ok_bind, hsalt, ok_bind, hd, ok_bind]⟩))
  rw [firstFailing_append_eq_none, firstFailing_append_eq_none, firstFailing_single]
  exact ⟨⟨checkParams_of_parameters hp, checkPad_of_padFits hfit⟩, decide_eq_true hout⟩

theorem padBlocks_of_reads {s : State} {m m' : Memory} {a a' : Nat} {pwd salt : List Byte}
    (hpwd : readBytes m a s.pwdLen.toNat = .ok pwd) (hsalt : readBytes m' a' s.saltLen.toNat = .ok salt) :
    padBlocks pwd.length salt.length = blocksOf s := by
  rw [readBytes_length hpwd, readBytes_length hsalt]
  rfl

/-- The state `DERIVE` leaves, register by register (R18, R110). -/
theorem storeDerived_eq {s : State} {d : Derived} {y : Walk} {b k : Nat} (hk : s.nRows.toNat = 2 ^ k)
    (hR : 2 ≤ s.nRows.toNat) (hend : DerivationEnd b s.timeCost.toNat s.nRows.toNat s.nCols.toNat d)
    (hy : d.tour = finalTour s.nRows.toNat s.timeCost.toNat y) (m : Memory) :
    { storeDerived d s with mem := m } =
      { s with S := d.work.S, mem := m, nBlk := BitVec.ofNat 64 b, row := 0, prev := natReg y.prev,
               rowa := natReg y.rowa,
               stride := if s.timeCost.toNat % 2 = 0 then -1 else BitVec.ofNat 64 (s.nRows.toNat / 2) - 1,
               window := s.nRows, gap := BitVec.ofInt 64 (schedule (s.nRows.toNat - 2)).gap, tau := s.timeCost } := by
  obtain ⟨-, -, -, hwin⟩ := schedAfter_pow hR hk
  rw [storeDerived, hend.nBlk, hend.sched, hy, schedule_eq_schedAfter, storeTour, finalTour, storeSched, hwin,
    intReg_wanderStride, natReg_toNat, natReg_toNat]
  rfl

/-- What lies outside OUT, the padded input and the matrix is not in the range of a derivation. -/
theorem deriveRange_outside {b n base len a : Nat} (h : DeriveRange b n base len)
    (hpad : a < 0x4000 ∨ 0x4000 + 64 * b ≤ a) (hM : a < 0x10000 ∨ 0x10000 + 96 * n ≤ a) : a < base ∨ base + len ≤ a := by
  rcases h with ⟨rfl, rfl⟩ | ⟨rfl, j, hj, rfl⟩
  · exact hpad
  · have hbase : mBase = 0x10000 := rfl
    omega

theorem deriveProc_writes {p : Params} {outLen : Word} {pwd salt : List Byte} {t R C : Word} {m : Memory} {d : Derived}
    (hR : 2 ≤ R.toNat) (h : deriveProc p outLen pwd salt t R C m = .ok d) :
    Writes (DeriveRange (padBlocks pwd.length salt.length) (R.toNat * C.toNat)) m d.work.mem := by
  have hfoot := deriveProc_footprint (p := p) (outLen := outLen) (pwd := pwd) (salt := salt) (t := t) (C := C) hR m
  rw [h] at hfoot
  exact hfoot

/-- Settles O40: everything a derivation reads it has written, so that it answers; its registers are those of Setup's
schedule and of Wandering's last visit. -/
theorem deriveCompletes : Obligations.DeriveCompletes := by
  intro s hr hp hfit hout hin
  obtain ⟨ht, ⟨-, hC, -⟩, hpow⟩ := id hp
  obtain ⟨hpwdHeld, hsaltHeld⟩ := hin
  obtain ⟨pwd, hpwd⟩ := readBytes_of_held (a := pwdBase) hpwdHeld
  obtain ⟨salt, hsalt⟩ := readBytes_of_held (a := saltBase) hsaltHeld
  have hR := two_le_of_power hpow
  obtain ⟨d, hd, hend⟩ := deriveProc_completes (p := Config.params) (outLen := s.outLen) (pwd := pwd) (salt := salt)
    hpow (toNat_pos_of_toInt_pos ht) (toNat_pos_of_toInt_pos hC) s.mem
  have hwrites := deriveProc_writes hR hd
  rw [padBlocks_of_reads hpwd hsalt] at hend hwrites
  obtain ⟨y, hy, hyp, hya⟩ := hend.tour
  obtain ⟨k, -, hk⟩ := hpow
  have hlen := deriveProc_out_length hd
  refine ⟨d.work.S, memWrite d.work.mem outBase d.out, natReg y.prev, natReg y.rowa, ?_, ?_, ?_, ?_,
    fun a hao hap ham => ?_⟩
  · rw [exec_derive hr hp hfit hout hpwd hsalt hd, storeDerived_eq hk hR hend hy]
  · rwa [toNat_natReg_of_lt hyp]
  · rwa [toNat_natReg_of_lt hya]
  · rw [← hlen]
    exact held_memWrite _ _ _
  · rw [memGet?_memWrite_outside (by rw [hlen]; exact hao)]
    exact hwrites.memGet?_eq fun base len hb => deriveRange_outside hb hap ham

end Sys2Proof.Proofs
end

section
/-! `DERIVE` as the commands `PAD`, `SINIT`, `ABSS`, `SETUP`, `WANDER`, `ABSF` and `SQZ` issued by the host (R110). -/

namespace Sys2Proof.Proofs

open Sys2Proof.Machine Sys2Proof.Claims

theorem execAll_append {l l' : List Instr} {s t : State} (h : execAll l s = .next t) :
    execAll (l ++ l') s = execAll l' t := by
  induction l generalizing s with
  | nil => cases h; rfl
  | cons i is ih =>
    rw [List.cons_append, execAll]
    rw [execAll] at h
    split at h
    next s' _ => exact ih h
    next => cases h
    next => cases h

/-- The commands `ABSS` of `n` safe blocks from block `k` leave the `S` that their absorption leaves. -/
theorem execAll_abss {n k : Nat} {s : State} {S : Vector Word 16} {w : Work} (hr : Ready s)
    (hn : k + n ≤ s.nBlk.toNat) (h : absorbBlocks n k { S := S, mem := s.mem } = .ok w) :
    execAll ((List.range' k n).map .abss) (finished { s with S := S }) = .next (finished { s with S := w.S }) := by
  induction n generalizing k S with
  | zero => cases h; rfl
  | succ n ih =>
    rw [absorbBlocks_succ, bind_eq_ok] at h
    obtain ⟨b, hb, h⟩ := h
    have hk : k < s.nBlk.toNat := by omega
    have hexec : exec (.abss k) (finished { s with S := S }) = .next (finished { s with S := absorbSafe b S }) :=
      exec_abss (ready_finished hr S) hk hb
    rw [List.range'_succ, List.map_cons, execAll_cons hexec]
    exact ih (by omega) h

/-- The safe blocks of a padded input that fits PADBUF are few enough for `NBLK` to hold their number. -/
theorem toNat_natReg_blocksOf {s : State} (hfit : PadFits s) : (natReg (blocksOf s)).toNat = blocksOf s := by
  obtain ⟨-, -, hpad⟩ := hfit
  have hmax := padMax_le Config.params
  rw [natReg, BitVec.toNat_ofNat]
  omega

/-- The first commands of a derivation by hand: the padded input written and absorbed (R90, R100). -/
theorem execAll_absorption {s : State} {pwd salt : List Byte} {w : Work} (hr : Ready s) (hfit : PadFits s)
    (hpwd : readBytes s.mem pwdBase s.pwdLen.toNat = .ok pwd)
    (hsalt : readBytes s.mem saltBase s.saltLen.toNat = .ok salt)
    (h : absorbBlocks (blocksOf s) 0
      { S := initState Config.params, mem := padProc s.outLen pwd salt s.timeCost s.nRows s.nCols s.mem } = .ok w) :
    execAll (.pad :: .sinit :: (List.range (blocksOf s)).map .abss) s =
      .next (finished { s with S := w.S, mem := w.mem, nBlk := natReg (blocksOf s) }) := by
  have hpad := exec_pad hr hfit hpwd hsalt
  rw [padBlocks_of_reads hpwd hsalt] at hpad
  have hsinit := exec_sinit (ready_finished (s := { s with
    mem := padProc s.outLen pwd salt s.timeCost s.nRows s.nCols s.mem, nBlk := natReg (blocksOf s) }) hr s.S)
  have habss := execAll_abss (k := 0) (n := blocksOf s) (s := { s with
    mem := padProc s.outLen pwd salt s.timeCost s.nRows s.nCols s.mem, nBlk := natReg (blocksOf s) }) hr
    (by rw [Nat.zero_add, toNat_natReg_blocksOf hfit]) h
  rw [execAll_cons hpad, execAll_cons hsinit, List.range_eq_range', absorbBlocks_mem h]
  exact habss

/-- The last commands of a derivation by hand: the block `ABSF` absorbs and the bytes `SQZ` returns are those of the
machine's finalization (R99). -/
theorem execAll_finalization {s : State} {x : List Byte × Work} {rowa : Nat} (hr : Ready s) (hg : Geometry s)
    (hrowa : rowa < s.nRows.toNat) (hC : 0 < s.nCols.toNat) (hout : s.outLen.toNat ≤ Config.params.outMax)
    (hx : finalProc s.outLen.toNat rowa s.nCols.toNat { S := s.S, mem := s.mem } = .ok x) :
    execAll [.absf rowa 0, .sqz] s =
      .next (finished { s with S := x.2.S, mem := memWrite x.2.mem outBase x.1 }) := by
  rw [finalProc_eq, bind_eq_ok] at hx
  obtain ⟨blk, hblk, hx⟩ := hx
  cases hx
  have hsqz (S : Vector Word 16) : exec .sqz (finished { s with S := S }) = .next (finished { s with
      S := (squeeze s.outLen.toNat S).2, mem := memWrite s.mem outBase (squeeze s.outLen.toNat S).1 }) :=
    exec_sqz (ready_finished hr S) hout
  have habsf : exec (.absf rowa 0) s = .next (finished { s with S := absorbFull blk s.S }) :=
    exec_absf hr hg hrowa hC hblk
  rw [execAll_cons habsf, execAll_cons (hsqz _)]
  rfl

section
variable {s : State} {w : Work} {x2 : Work × Sched} {x3 : Work × Tour}

/-- The state before `SETUP` in a derivation by hand: the padded input absorbed. -/
def afterAbsorption (w : Work) (s : State) : State :=
  finished { s with S := w.S, mem := w.mem, nBlk := natReg (blocksOf s) }

/-- The state after `SETUP` and `WANDER` in a derivation by hand. -/
def afterWander (x2 : Work × Sched) (x3 : Work × Tour) (s : State) : State :=
  finished (storeTour x3.2 (storeWork x3.1 (finished (storeSched x2.2 (storeWork x2.1 s)))))

theorem execAll_setup_wander (hr : Ready s) (hp : Parameters s.timeCost s)
    (h2 : setupProc Config.params s.nRows.toNat s.nCols.toNat { S := s.S, mem := s.mem } = .ok x2)
    (hprev : x2.2.prev < s.nRows.toNat)
    (h3 : wanderProc s.timeCost.toNat s.nRows.toNat s.nCols.toNat x2.2.prev x2.1 = .ok x3) :
    execAll [.setup, .wander] s = .next (afterWander x2 x3 s) := by
  obtain ⟨hrun, herr⟩ := id hr
  have hready : Ready (finished (storeSched x2.2 (storeWork x2.1 s))) := ⟨hrun, herr⟩
  have hsetup := exec_setup hr ⟨by decide, hp.2⟩ h2
  have hreg := toNat_natReg_of_lt hprev
  rw [← hreg] at hprev h3
  have hwander := exec_wander (s := finished (storeSched x2.2 (storeWork x2.1 s))) hready hp hprev h3
  rw [execAll_cons hsetup, execAll_cons hwander]
  rfl

end

/-- Settles O41: each command of the list is one procedure of the derivation, and finds what the one before it left. -/
theorem deriveIsTheDerivationByHand : Obligations.DeriveIsTheDerivationByHand := by
  intro s hr hp hfit hout hin
  obtain ⟨ht, hg, hpow⟩ := id hp
  obtain ⟨-, hC, -⟩ := id hg
  obtain ⟨hpwdHeld, hsaltHeld⟩ := hin
  obtain ⟨pwd, hpwd⟩ := readBytes_of_held (a := pwdBase) hpwdHeld
  obtain ⟨salt, hsalt⟩ := readBytes_of_held (a := saltBase) hsaltHeld
  obtain ⟨d, hd, hend⟩ := deriveProc_completes (p := Config.params) (outLen := s.outLen) (pwd := pwd) (salt := salt)
    hpow (toNat_pos_of_toInt_pos ht) (toNat_pos_of_toInt_pos hC) s.mem
  have hderive := exec_derive hr hp hfit hout hpwd hsalt hd
  rw [deriveProc_eq, padBlocks_of_reads hpwd hsalt] at hd
  obtain ⟨w1, h1, hd⟩ := bind_eq_ok.1 hd
  obtain ⟨x2, h2, hd⟩ := bind_eq_ok.1 hd
  obtain ⟨x3, h3, hd⟩ := bind_eq_ok.1 hd
  obtain ⟨x4, h4, hd⟩ := bind_eq_ok.1 hd
  cases hd
  have hprev : x2.2.prev < s.nRows.toNat := by
    have hsched : x2.2 = _ := hend.sched
    rw [hsched]
    exact schedAfter_prev_lt hpow
  have hrowa : x3.2.rowa < s.nRows.toNat := by
    obtain ⟨y, hy, -, hya⟩ := hend.tour
    have hy : x3.2 = _ := hy
    rw [hy]
    exact hya
  obtain ⟨hrun, herr⟩ := id hr
  have hready : Ready (afterAbsorption w1 s) := ⟨hrun, herr⟩
  have hready' : Ready (afterWander x2 x3 (afterAbsorption w1 s)) := ⟨hrun, herr⟩
  have habsorb := execAll_absorption hr hfit hpwd hsalt h1
  have hloop := execAll_setup_wander (s := afterAbsorption w1 s) hready hp h2 hprev h3
  have hfinal := execAll_finalization (s := afterWander x2 x3 (afterAbsorption w1 s)) hready' hg hrowa
    (toNat_pos_of_toInt_pos hC) hout h4
  have hreg : (afterWander x2 x3 (afterAbsorption w1 s)).rowa.toNat = x3.2.rowa := toNat_natReg_of_lt hrowa
  refine ⟨_, _, hderive, (execAll_append habsorb).trans hloop, ?_⟩
  rw [hreg, hfinal]
  rfl

end Sys2Proof.Proofs
end

section
/-! More storage does not change what a procedure does: where it answers on one storage, it answers alike on any storage
that holds at least the same bytes. So what it leaves is what it leaves on the least storage it needs (R97, R119). -/

namespace Sys2Proof.Proofs

open Sys2Proof.Machine Sys2Proof.Claims

/-! ### Storages that hold at least the same bytes -/

/-- Every byte that `m` holds, `m'` holds with the same value. -/
def Extends (m m' : Memory) : Prop := ∀ a b, memGet? m a = some b → memGet? m' a = some b

theorem extends_nil (m : Memory) : Extends [] m := fun _ _ h => nomatch h

section
variable {m m' m'' : Memory}

theorem Extends.memWrite (h : Extends m m') (base : Nat) (bs : List Byte) :
    Extends (memWrite m base bs) (memWrite m' base bs) := by
  intro a b hb
  rw [memGet?_memWrite] at hb ⊢
  split at hb
  next hin => rwa [if_pos hin]
  next hout => rw [if_neg hout]; exact h a b hb

theorem Extends.readBytes {a n : Nat} {bs : List Byte} (h : Extends m m') (hr : readBytes m a n = .ok bs) :
    Machine.readBytes m' a n = .ok bs := by
  obtain ⟨hl, hbs⟩ := readBytes_eq_ok.1 hr
  refine readBytes_eq_ok.2 ⟨hl, fun k hk => ?_⟩
  have hbyte := hbs k hk
  rw [List.getElem?_eq_getElem (hl ▸ hk)] at hbyte ⊢
  exact h _ _ hbyte

theorem Extends.readWords {a n : Nat} {ws : Vector Word n} (h : Extends m m') (hr : readWords m a n = .ok ws) :
    Machine.readWords m' a n = .ok ws :=
  readWords_eq_ok.2 fun k hk i hi => h _ _ (readWords_eq_ok.1 hr k hk i hi)

/-- Two storages that extend one storage agree where it holds a value. -/
theorem Extends.agree {a : Nat} (h : Extends m m') (h' : Extends m m'') (ha : (memGet? m a).isSome = true) :
    memGet? m'' a = memGet? m' a := by
  obtain ⟨b, hb⟩ := Option.isSome_iff_exists.1 ha
  rw [h _ _ hb, h' _ _ hb]

end

/-- A byte of a range that is held. -/
theorem isSome_of_held {m : Memory} {base n a : Nat} (h : Held m base n) (h1 : base ≤ a) (h2 : a < base + n) :
    (memGet? m a).isSome = true := by
  have hbyte := h (a - base) (by omega)
  rwa [show base + (a - base) = a by omega] at hbyte

/-! ### Outcomes on an extended storage -/

/-- Where the first outcome answers, the second answers with a result in the relation `rel` to its result. -/
def Follows {α : Type} (rel : α → α → Prop) (r r' : Except Fault α) : Prop :=
  ∀ x, r = .ok x → ∃ x', r' = .ok x' ∧ rel x x'

section
variable {α β : Type} {rel : α → α → Prop} {rel' : β → β → Prop}

theorem Follows.ok {x x' : α} (h : rel x x') : Follows rel (.ok x) (.ok x') := by
  rintro _ ⟨⟩
  exact ⟨x', rfl, h⟩

theorem Follows.bind {r r' : Except Fault α} {f f' : α → Except Fault β} (h : Follows rel r r')
    (hf : ∀ x x', rel x x' → Follows rel' (f x) (f' x')) : Follows rel' (r.bind f) (r'.bind f') := by
  intro y hy
  obtain ⟨x, hx, hfx⟩ := bind_eq_ok.1 hy
  obtain ⟨x', hx', hrel⟩ := h x hx
  obtain ⟨y', hy', hrel'⟩ := hf x x' hrel y hfx
  exact ⟨y', bind_eq_ok.2 ⟨x', hx', hy'⟩, hrel'⟩

/-- A procedure that reads something first, and reads the same in both runs. -/
theorem Follows.read {r r' : Except Fault α} {f f' : α → Except Fault β} (h : Follows Eq r r')
    (hf : ∀ x, Follows rel' (f x) (f' x)) : Follows rel' (r.bind f) (r'.bind f') :=
  h.bind fun x _ he => he ▸ hf x

end

section
variable {m m' : Memory} (h : Extends m m')
include h

theorem readBuf_follows (b : Buf) : Follows Eq (readBuf m b) (readBuf m' b) := fun x hx => ⟨x, h.readBytes hx, rfl⟩

theorem readBlock_follows (C row col : Nat) : Follows Eq (readBlock m C row col) (readBlock m' C row col) :=
  fun x hx => ⟨x, h.readWords hx, rfl⟩

theorem readSafeBlock_follows (n : Nat) : Follows Eq (readSafeBlock m n) (readSafeBlock m' n) :=
  fun x hx => ⟨x, h.readWords hx, rfl⟩

theorem Extends.writeBlock (C row col : Nat) (blk : Vector Word 12) :
    Extends (writeBlock m C row col blk) (writeBlock m' C row col blk) := h.memWrite _ _

end

/-! ### Row operations, Setup and Wandering (R91 to R98) -/

/-- The same `S`, on a storage that holds at least the same bytes. -/
structure WorkExtends (w w' : Work) : Prop where
  S : w'.S = w.S
  mem : Extends w.mem w'.mem

/-- The same loop variables beside extended work. -/
def BesideExtends {β : Type} (x x' : Work × β) : Prop := WorkExtends x.1 x'.1 ∧ x'.2 = x.2

theorem forCols_follows {f : Nat → Work → Except Fault Work} {n col : Nat} {w w' : Work}
    (hf : ∀ c v v', WorkExtends v v' → Follows WorkExtends (f c v) (f c v')) (h : WorkExtends w w') :
    Follows WorkExtends (forCols f n col w) (forCols f n col w') := by
  induction n generalizing col w w' with
  | zero => exact .ok h
  | succ n ih =>
    rw [forCols_succ, forCols_succ]
    exact (hf col w w' h).bind fun _ _ => ih

section
variable {w w' : Work} (h : WorkExtends w w')
include h

theorem squeezeRow0_follows (p : Params) (rout C : Nat) :
    Follows WorkExtends (squeezeRow0 p rout C w) (squeezeRow0 p rout C w') :=
  forCols_follows (fun c v v' hv => by
    obtain ⟨S, m⟩ := v'
    obtain ⟨rfl, hm⟩ := hv
    exact .ok ⟨rfl, hm.writeBlock _ _ _ _⟩) h

theorem duplexRow1_follows (rin rout C : Nat) :
    Follows WorkExtends (duplexRow1 rin rout C w) (duplexRow1 rin rout C w') :=
  forCols_follows (fun c v v' hv => by
    obtain ⟨S, m⟩ := v'
    obtain ⟨rfl, hm⟩ := hv
    rw [duplexRow1Step_eq, duplexRow1Step_eq]
    exact (readBlock_follows hm _ _ _).read fun x => .ok ⟨rfl, hm.writeBlock _ _ _ _⟩) h

theorem duplexRowSetup_follows (p : Params) (prev rowa rnew C : Nat) :
    Follows WorkExtends (duplexRowSetup p prev rowa rnew C w) (duplexRowSetup p prev rowa rnew C w') :=
  forCols_follows (fun c v v' hv => by
    obtain ⟨S, m⟩ := v'
    obtain ⟨rfl, hm⟩ := hv
    rw [duplexRowSetupStep_eq, duplexRowSetupStep_eq]
    exact (readBlock_follows hm _ _ _).read fun x => (readBlock_follows hm _ _ _).read fun y =>
      .ok ⟨rfl, (hm.writeBlock _ _ _ _).writeBlock _ _ _ _⟩) h

theorem duplexRow_follows (prev rowa row C : Nat) :
    Follows WorkExtends (duplexRow prev rowa row C w) (duplexRow prev rowa row C w') :=
  forCols_follows (fun c v v' hv => by
    obtain ⟨S, m⟩ := v'
    obtain ⟨rfl, hm⟩ := hv
    rw [duplexRowStep_eq, duplexRowStep_eq]
    refine (readBlock_follows hm _ _ _).read fun x => (readBlock_follows hm _ _ _).read fun y =>
      (readBlock_follows hm _ _ _).read fun z => ?_
    have hmem : Extends (duplexRowMem row C c v x y z) (duplexRowMem row C c ⟨v.S, m⟩ x y z) := hm.writeBlock _ _ _ _
    exact (readBlock_follows hmem _ _ _).read fun y' => .ok ⟨rfl, hmem.writeBlock _ _ _ _⟩) h

theorem setupLoop_follows (p : Params) (C n : Nat) (c : Sched) :
    Follows BesideExtends (setupLoop p C n c w) (setupLoop p C n c w') := by
  induction n generalizing c w w' with
  | zero => exact .ok ⟨h, rfl⟩
  | succ n ih =>
    rw [setupLoop_succ, setupLoop_succ]
    exact (duplexRowSetup_follows h _ _ _ _ _).bind fun _ _ hv => ih hv _

theorem setupProc_follows (p : Params) (R C : Nat) : Follows BesideExtends (setupProc p R C w) (setupProc p R C w') := by
  rw [setupProc_eq, setupProc_eq]
  exact (squeezeRow0_follows h _ _ _).bind fun _ _ h1 => (duplexRow1_follows h1 _ _ _).bind fun _ _ h2 =>
    setupLoop_follows h2 _ _ _ _

theorem absorbBlocks_follows (n blk : Nat) : Follows WorkExtends (absorbBlocks n blk w) (absorbBlocks n blk w') := by
  induction n generalizing blk w w' with
  | zero => exact .ok h
  | succ n ih =>
    rw [absorbBlocks_succ, absorbBlocks_succ]
    have hnext (b : Vector Word 8) :
        WorkExtends { w with S := absorbSafe b w.S } { w' with S := absorbSafe b w'.S } :=
      ⟨congrArg (absorbSafe b) h.S, h.mem⟩
    exact (readSafeBlock_follows h.mem _).read fun b => ih (hnext b) _

theorem finalProc_follows (outLen rowa C : Nat) :
    Follows (fun x x' => x'.1 = x.1 ∧ WorkExtends x.2 x'.2) (finalProc outLen rowa C w) (finalProc outLen rowa C w') := by
  rw [finalProc_eq, finalProc_eq]
  exact (readBlock_follows h.mem _ _ _).read fun blk => .ok ⟨by rw [h.S], by rw [h.S], h.mem⟩

end

section
variable {R C : Nat} {x x' : Work × Tour} (h : BesideExtends x x')
include h

theorem wanderVisit_follows : Follows BesideExtends (wanderVisit R C x) (wanderVisit R C x') := by
  obtain ⟨w', u⟩ := x'
  obtain ⟨hw, rfl⟩ := h
  have hrowa : visitRowa R (w', x.2) = visitRowa R x := by rw [visitRowa, visitRowa, hw.S]
  rw [wanderVisit_eq, wanderVisit_eq, visitTour, visitTour, hrowa]
  exact (duplexRow_follows hw _ _ _ _).bind fun _ _ hv => .ok ⟨hv, rfl⟩

theorem wanderPass_follows (fuel : Nat) : Follows BesideExtends (wanderPass R C fuel x) (wanderPass R C fuel x') := by
  induction fuel generalizing x x' with
  | zero => exact .ok h
  | succ fuel ih =>
    rw [wanderPass_succ, wanderPass_succ]
    refine (wanderVisit_follows h).bind fun y y' hy => ?_
    rw [hy.2]
    split
    · exact .ok hy
    · exact ih hy

theorem wanderPasses_follows (n tau : Nat) :
    Follows BesideExtends (wanderPasses R C n tau x) (wanderPasses R C n tau x') := by
  induction n generalizing tau x x' with
  | zero => exact .ok h
  | succ n ih =>
    obtain ⟨w', u⟩ := x'
    obtain ⟨hw, rfl⟩ := h
    rw [wanderPasses_succ, wanderPasses_succ]
    have hstart : BesideExtends (x.1, { x.2 with tau := tau, stride := wanderStride R tau })
        (w', { x.2 with tau := tau, stride := wanderStride R tau }) := ⟨hw, rfl⟩
    exact (wanderPass_follows hstart R).bind fun _ _ hy => ih hy _

end

theorem wanderProc_follows {w w' : Work} (h : WorkExtends w w') (T R C prev : Nat) :
    Follows BesideExtends (wanderProc T R C prev w) (wanderProc T R C prev w') :=
  have hstart (u : Tour) : BesideExtends (w, u) (w', u) := ⟨h, rfl⟩
  wanderPasses_follows (hstart _) T 1

/-! ### Derivations (R97, R100) -/

/-- A derivation with the same results, on a storage that holds at least the same bytes. -/
structure DerivedExtends (d d' : Derived) : Prop where
  out : d'.out = d.out
  work : WorkExtends d.work d'.work
  nBlk : d'.nBlk = d.nBlk
  sched : d'.sched = d.sched
  tour : d'.tour = d.tour

theorem deriveProc_follows {m m' : Memory} (h : Extends m m') (p : Params) (outLen : Word) (pwd salt : List Byte)
    (t R C : Word) :
    Follows DerivedExtends (deriveProc p outLen pwd salt t R C m) (deriveProc p outLen pwd salt t R C m') := by
  rw [deriveProc_eq, deriveProc_eq]
  have hpad : WorkExtends { S := initState p, mem := padProc outLen pwd salt t R C m }
      { S := initState p, mem := padProc outLen pwd salt t R C m' } := ⟨rfl, h.memWrite _ _⟩
  refine (absorbBlocks_follows hpad _ _).bind fun w1 w1' h1 =>
    (setupProc_follows h1 _ _ _).bind fun x2 x2' h2 => ?_
  obtain ⟨hw2, hsched⟩ := h2
  rw [hsched]
  refine (wanderProc_follows hw2 _ _ _ _).bind fun x3 x3' h3 => ?_
  obtain ⟨hw3, htour⟩ := h3
  rw [htour]
  exact (finalProc_follows hw3 _ _ _).bind fun x4 x4' h4 => .ok ⟨h4.1, h4.2, rfl, rfl, rfl⟩

/-! ### `DERIVE` on any storage (R97, R110) -/

/-- `DERIVE` on a state with the given password and salt leaves what the derivation on the empty storage leaves. -/
theorem exec_derive_follows {s : State} {pwd salt : List Byte} {d : Derived} (hr : Ready s)
    (hp : Parameters s.timeCost s) (hfit : PadFits s) (hout : s.outLen.toNat ≤ Config.params.outMax)
    (hpwd : readBytes s.mem pwdBase s.pwdLen.toNat = .ok pwd)
    (hsalt : readBytes s.mem saltBase s.saltLen.toNat = .ok salt)
    (hd : deriveProc Config.params s.outLen pwd salt s.timeCost s.nRows s.nCols [] = .ok d) :
    ∃ d', exec .derive s = .next (finished { storeDerived d' s with mem := memWrite d'.work.mem outBase d'.out }) ∧
      DerivedExtends d d' := by
  obtain ⟨d', hd', he⟩ := deriveProc_follows (extends_nil s.mem) Config.params s.outLen pwd salt s.timeCost s.nRows
    s.nCols d hd
  exact ⟨d', exec_derive hr hp hfit hout hpwd hsalt hd', he⟩

/-- The bytes that a derivation on the empty storage leaves and that end in OUT are the bytes any derivation leaves. -/
theorem DerivedExtends.memWrite {d d' : Derived} (h : DerivedExtends d d') (base : Nat) :
    Extends (memWrite d.work.mem base d.out) (memWrite d'.work.mem base d'.out) := by
  rw [h.out]
  exact h.work.mem.memWrite _ _

/-- Settles O42: both states leave the bytes and registers that the derivation on the empty storage leaves. -/
theorem deriveForgetsTheScratch : Obligations.DeriveForgetsTheScratch := by
  intro s1 s2 hr1 hr2 hp1 hfit1 hout1 hin hol hpl hsl htc hnr hnc hpwdEq hsaltEq
  obtain ⟨ht, ⟨-, hC, -⟩, hpow⟩ := id hp1
  obtain ⟨hpwdHeld, hsaltHeld⟩ := hin
  obtain ⟨pwd, hpwd1⟩ := readBytes_of_held (a := pwdBase) hpwdHeld
  obtain ⟨salt, hsalt1⟩ := readBytes_of_held (a := saltBase) hsaltHeld
  have hpwd2 : readBytes s2.mem pwdBase s2.pwdLen.toNat = .ok pwd := by
    rw [hpl]
    exact (readBytes_congr (a := pwdBase) hpwdEq).trans hpwd1
  have hsalt2 : readBytes s2.mem saltBase s2.saltLen.toNat = .ok salt := by
    rw [hsl]
    exact (readBytes_congr (a := saltBase) hsaltEq).trans hsalt1
  have hp2 : Parameters s2.timeCost s2 := by
    unfold Parameters Geometry
    rw [htc, hnr, hnc]
    exact hp1
  have hfit2 : PadFits s2 := by
    unfold PadFits blocksOf
    rw [hpl, hsl]
    exact hfit1
  obtain ⟨d, hd, hend⟩ := deriveProc_completes (p := Config.params) (outLen := s1.outLen) (pwd := pwd) (salt := salt)
    hpow (toNat_pos_of_toInt_pos ht) (toNat_pos_of_toInt_pos hC) []
  have hd2 : deriveProc Config.params s2.outLen pwd salt s2.timeCost s2.nRows s2.nCols [] = .ok d := by
    rw [hol, htc, hnr, hnc, hd]
  obtain ⟨d1, hexec1, he1⟩ := exec_derive_follows hr1 hp1 hfit1 hout1 hpwd1 hsalt1 hd
  obtain ⟨d2, hexec2, he2⟩ := exec_derive_follows hr2 hp2 hfit2 (hol ▸ hout1) hpwd2 hsalt2 hd2
  have htour : d2.tour = d1.tour := he2.tour.trans he1.tour.symm
  have hsched : d2.sched = d1.sched := he2.sched.trans he1.sched.symm
  refine ⟨_, _, hexec1, hexec2, he2.work.S.trans he1.work.S.symm, congrArg natReg (he2.nBlk.trans he1.nBlk.symm),
    congrArg (fun u : Tour => natReg u.row) htour, congrArg (fun u : Tour => natReg u.prev) htour,
    congrArg (fun u : Tour => natReg u.rowa) htour, congrArg (fun u : Tour => intReg u.stride) htour,
    congrArg (fun c : Sched => natReg c.window) hsched, congrArg (fun c : Sched => intReg c.gap) hsched,
    congrArg (fun u : Tour => natReg u.tau) htour, fun a ha => ?_⟩
  refine (he1.memWrite outBase).agree (he2.memWrite outBase) ?_
  rcases ha with ⟨h1, h2⟩ | ⟨h1, h2⟩ | ⟨h1, h2⟩
  · exact isSome_of_held (held_memWrite _ _ _) h1 (by rw [deriveProc_out_length hd]; exact h2)
  · rw [← padBlocks_of_reads hpwd1 hsalt1] at h2
    exact memGet?_memWrite_isSome (isSome_of_held hend.padded h1 h2)
  · exact memGet?_memWrite_isSome (isSome_of_held hend.rows h1 h2)

end Sys2Proof.Proofs
end

section
/-! `POWHASH` on any storage leaves what it leaves on a storage that holds the header alone (R118, R119). -/

namespace Sys2Proof.Proofs

open Sys2Proof.Machine Sys2Proof.Claims

/-! ### The stages on an extended storage (R116, R118) -/

section
variable {p : Params} {m m' : Memory} (h : Extends m m')
include h

theorem hashStage_follows (u : Fin 5) (src dst : Buf) :
    Follows Extends (hashStage p u src dst m) (hashStage p u src dst m') := by
  rw [hashStage_eq, hashStage_eq]
  exact (readBuf_follows h src).read fun _ => .ok (h.memWrite _ _)

theorem hashStages_follows (l : List (Fin 5 × Buf × Buf)) : Follows Extends (hashStages p l m) (hashStages p l m') := by
  induction l generalizing m m' with
  | nil => exact .ok h
  | cons x l ih =>
    obtain ⟨u, src, dst⟩ := x
    rw [hashStages_cons, hashStages_cons]
    exact (hashStage_follows h u src dst).bind fun _ _ => ih

theorem deriveStage_follows : Follows DerivedExtends (deriveStage p m) (deriveStage p m') := by
  rw [deriveStage_eq, deriveStage_eq]
  refine (readBuf_follows h _).read fun a => (deriveProc_follows h p 32 a a 1 4 4).bind fun d d' he => ?_
  have hmem : Extends (writeBuf d.work.mem .bufB d.out) (writeBuf d'.work.mem .bufB d'.out) := he.memWrite _
  exact .ok ⟨he.out, ⟨he.work.S, hmem⟩, he.nBlk, he.sched, he.tour⟩

end

/-! ### The stages answer (R118) -/

/-- Every byte of the buffer has been written. -/
def HeldBuf (m : Memory) (b : Buf) : Prop := Held m b.base b.size

/-- Each stage reads the buffer that the one before it wrote, the first one `b`; none writes the header. -/
def Chained : Buf → List (Fin 5 × Buf × Buf) → Prop
  | _, [] => True
  | b, (_, src, dst) :: rest => src = b ∧ dst ≠ .hdr ∧ Chained dst rest

theorem heldBuf_writeBuf {b : Buf} (hb : b ≠ .hdr) {bs : List Byte} (hl : bs.length = 32) (m : Memory) :
    HeldBuf (writeBuf m b bs) b := by
  have h := held_memWrite m b.base bs
  rw [hl] at h
  cases b with
  | hdr => exact absurd rfl hb
  | bufA => exact h
  | bufB => exact h

section
variable {p : Params} {m m' : Memory} {b : Buf} {l : List (Fin 5 × Buf × Buf)}

theorem Chained.ne_hdr (hl : Chained b l) : ∀ x ∈ l, x.2.2 ≠ .hdr := by
  induction l generalizing b with
  | nil => exact nofun
  | cons x l ih =>
    obtain ⟨-, hdst, hrest⟩ := hl
    exact List.forall_mem_cons.2 ⟨hdst, ih hrest⟩

theorem hashStages_writes (hl : Chained b l) (h : hashStages p l m = .ok m') : Writes (CommandRange p) m m' := by
  have hfoot := hashStages_footprint p hl.ne_hdr m
  rw [h] at hfoot
  exact hfoot

/-- Chained stages answer when the first buffer is held, and hold every buffer they write. -/
theorem hashStages_completes (hl : Chained b l) (h : HeldBuf m b) :
    ∃ m', hashStages p l m = .ok m' ∧ ∀ x ∈ l, HeldBuf m' x.2.2 := by
  induction l generalizing b m with
  | nil => exact ⟨m, rfl, nofun⟩
  | cons x l ih =>
    obtain ⟨u, src, dst⟩ := x
    obtain ⟨rfl, hdst, hrest⟩ := hl
    obtain ⟨bs, hbs⟩ : ∃ bs, readBuf m src = .ok bs := readBytes_of_held h
    have hheld : HeldBuf (writeBuf m dst (hashOf p u bs)) dst := heldBuf_writeBuf hdst (length_hashOf _ _ _) m
    obtain ⟨m', hrun, hwritten⟩ := ih hrest hheld
    refine ⟨m', ?_, List.forall_mem_cons.2 ⟨(hashStages_writes hrest hrun).held hheld, hwritten⟩⟩
    rw [hashStages_cons, hashStage_eq, hbs, ok_bind, ok_bind, hrun]

end

theorem chained_stagesBefore : Chained .hdr stagesBefore :=
  ⟨rfl, by decide, rfl, by decide, rfl, by decide, trivial⟩

theorem chained_stagesAfter : Chained .bufB stagesAfter :=
  ⟨rfl, by decide, rfl, by decide, rfl, by decide, trivial⟩

/-- What stage 4 leaves held: its two safe blocks, its four rows of four columns and the digest in BUFB. -/
structure StageHeld (m : Memory) : Prop where
  padded : Held m padBase 128
  rows : RowsHeld m 4 4
  bufB : HeldBuf m .bufB

theorem StageHeld.writes {A : Nat → Nat → Prop} {m m' : Memory} (h : StageHeld m) (hw : Writes A m m') :
    StageHeld m' := ⟨hw.held h.padded, hw.held h.rows, hw.held h.bufB⟩

theorem deriveStage_completes {p : Params} {m : Memory} (h : HeldBuf m .bufA) :
    ∃ d, deriveStage p m = .ok d ∧ StageHeld d.work.mem := by
  obtain ⟨a, ha⟩ : ∃ a, readBuf m .bufA = .ok a := readBytes_of_held h
  obtain ⟨d, hd, hend⟩ := deriveProc_completes (p := p) (outLen := 32) (pwd := a) (salt := a) (t := 1) (R := 4) (C := 4)
    ⟨2, by decide, rfl⟩ (by decide) (by decide) m
  have hl : a.length = 32 := readBytes_length ha
  have hpadded := hend.padded
  rw [hl] at hpadded
  refine ⟨_, by rw [deriveStage_eq, ha, ok_bind, hd, ok_bind], ?_, ?_, ?_⟩
  · exact fun k hk => memGet?_memWrite_isSome (hpadded k hk)
  · exact fun k hk => memGet?_memWrite_isSome (hend.rows k hk)
  · exact heldBuf_writeBuf (by decide) (deriveProc_out_length hd) _

/-! ### The chain (R118, R119) -/

/-- The seven stages: the derivation of stage 4 and the storage after stage 7. -/
def chain (p : Params) (m : Memory) : Except Fault (Derived × Memory) :=
  (hashStages p stagesBefore m).bind fun m3 => (deriveStage p m3).bind fun d =>
    (hashStages p stagesAfter d.work.mem).bind fun m7 => .ok (d, m7)

theorem chain_follows {m m' : Memory} (h : Extends m m') (p : Params) :
    Follows (fun x x' => DerivedExtends x.1 x'.1 ∧ Extends x.2 x'.2) (chain p m) (chain p m') :=
  (hashStages_follows h _).bind fun _ _ h3 => (deriveStage_follows h3).bind fun _ _ hd =>
    (hashStages_follows hd.work.mem _).bind fun _ _ h7 => .ok ⟨hd, h7⟩

/-- The chain answers on a storage that holds the header, and leaves both buffers, the padded input and the matrix
held. -/
theorem chain_completes {p : Params} {m : Memory} (h : HeldBuf m .hdr) :
    ∃ x, chain p m = .ok x ∧ HeldBuf x.2 .bufA ∧ StageHeld x.2 := by
  obtain ⟨m3, h3, hwritten3⟩ := hashStages_completes (p := p) chained_stagesBefore h
  obtain ⟨d, hd, hheld⟩ := deriveStage_completes (p := p) (hwritten3 (2, .bufB, .bufA) (by decide))
  obtain ⟨m7, h7, hwritten7⟩ := hashStages_completes (p := p) chained_stagesAfter hheld.bufB
  exact ⟨(d, m7), by rw [chain, h3, ok_bind, hd, ok_bind, h7, ok_bind], hwritten7 (4, .bufB, .bufA) (by decide),
    hheld.writes (hashStages_writes chained_stagesAfter h7)⟩

/-- `POWHASH` leaves what the chain leaves on the storage of the state. -/
theorem exec_powhash {s : State} {x : Derived × Memory} (hr : Ready s) (hl : s.hdrLen = 80)
    (hx : chain Config.params s.mem = .ok x) :
    exec .powhash s =
      .next (finished { storeDerived x.1 s with mem := x.2, acc := Vector.replicate 5 none }) := by
  obtain ⟨m3, h3, hx⟩ := bind_eq_ok.1 hx
  obtain ⟨d, hd, hx⟩ := bind_eq_ok.1 hx
  obtain ⟨m7, h7, hx⟩ := bind_eq_ok.1 hx
  cases hx
  refine exec_completes hr rfl ((planPowhash_eq _ _).trans (checked_eq_ok.2 ⟨?_, ?_⟩))
  · exact firstFailing_single.2 (decide_eq_true hl)
  · rw [h3, ok_bind, hd, ok_bind, h7, ok_bind]

theorem extends_of_readBytes {m : Memory} {a n : Nat} {bs : List Byte} (h : readBytes m a n = .ok bs) :
    Extends (memWrite [] a bs) m := by
  obtain ⟨hl, hbs⟩ := readBytes_eq_ok.1 h
  intro b v hv
  rw [memGet?_memWrite] at hv
  split at hv
  next hin =>
    have hbyte := hbs (b - a) (by omega)
    rwa [hv, show a + (b - a) = b by omega] at hbyte
  next => cases hv

/-- Settles O49: both states leave what the chain leaves on the storage that holds their header alone. -/
theorem powhashDependsOnTheHeaderAlone : Obligations.PowhashDependsOnTheHeaderAlone := by
  intro s1 s2 hr1 hr2 hl1 hl2 hheld heq
  obtain ⟨hdr, hhdr1⟩ := readBytes_of_held (a := hdrBase) hheld
  have hhdr2 : readBytes s2.mem hdrBase 80 = .ok hdr := (readBytes_congr heq).trans hhdr1
  have hhdr : HeldBuf (memWrite [] hdrBase hdr) .hdr := by
    have h := held_memWrite [] hdrBase hdr
    rwa [readBytes_length hhdr1] at h
  obtain ⟨x, hx, hbufA, hstage⟩ := chain_completes (p := Config.params) hhdr
  obtain ⟨x1, hx1, hd1, hm1⟩ := chain_follows (extends_of_readBytes hhdr1) _ x hx
  obtain ⟨x2, hx2, hd2, hm2⟩ := chain_follows (extends_of_readBytes hhdr2) _ x hx
  refine ⟨_, _, exec_powhash hr1 hl1 hx1, exec_powhash hr2 hl2 hx2, hd2.work.S.trans hd1.work.S.symm,
    congrArg (fun u : Tour => natReg u.rowa) (hd2.tour.trans hd1.tour.symm), fun a ha => hm1.agree hm2 ?_⟩
  rcases ha with ⟨h1, h2⟩ | ⟨h1, h2⟩ | ⟨h1, h2⟩
  · by_cases hlow : a < 0x220
    · exact isSome_of_held hbufA h1 hlow
    · exact isSome_of_held hstage.bufB (Nat.le_of_not_lt hlow) h2
  · exact isSome_of_held hstage.padded h1 h2
  · exact isSome_of_held hstage.rows h1 h2

end Sys2Proof.Proofs
end

section
/-! The adapter commands on the bytes and operands the claims name: what `HP.RESET`, `HP.UPDATE`, `HP.DIGEST` and
`HSTAGE` leave, and which error each of them and `POWHASH` raises (R113 to R116, R119, R120, R129). -/

namespace Sys2Proof.Proofs

open Sys2Proof.Machine Sys2Proof.Claims

/-! ### Byte strings in storage (R39) -/

theorem holdsBytes_memWrite (m : Memory) (base : Nat) (bs : List Byte) : HoldsBytes (memWrite m base bs) base bs :=
  fun _ hk => (memGet?_memWrite_inside hk).trans (List.getElem?_eq_getElem hk).symm

theorem sameOutside_memWrite (m : Memory) (base : Nat) (bs : List Byte) :
    SameOutside m (memWrite m base bs) base bs.length := fun _ hb => memGet?_memWrite_outside hb

theorem readBuf_of_holdsBytes {m : Memory} {b : Buf} {base size : Nat} {bs : List Byte} (hbase : b.base = base)
    (hsize : b.size = size) (hl : bs.length = size) (h : HoldsBytes m base bs) : readBuf m b = .ok bs := by
  subst hbase hsize
  exact readBytes_of_holdsBytes hl h

/-! ### Operand selectors (R60) -/

theorem exists_unit?_iff {k : Nat} : (∃ u, unit? k = some u) ↔ 1 ≤ k ∧ k ≤ 5 := by
  unfold unit?
  split
  next h => exact iff_of_true ⟨_, rfl⟩ h
  next h => exact iff_of_false nofun h

/-- A source selector names a buffer, and HDR by 0 only. -/
theorem srcBuf?_of_le {src : Nat} (h : src ≤ 2) : ∃ b, srcBuf? src = some b ∧ (b = .hdr ↔ src = 0) := by
  obtain ⟨base, size, hrange⟩ : ∃ base size, SrcRange src base size := by
    unfold SrcRange
    rcases (show src = 0 ∨ src = 1 ∨ src = 2 by omega) with rfl | rfl | rfl <;> simp
  obtain ⟨b, hb, -, -, hhdr⟩ := srcBuf?_of_range hrange
  exact ⟨b, hb, hhdr⟩

theorem exists_srcBuf?_iff {src : Nat} : (∃ b, srcBuf? src = some b) ↔ src ≤ 2 := by
  refine ⟨fun ⟨b, hb⟩ => ?_, fun h => ?_⟩
  · unfold srcBuf? at hb
    split at hb
    next => decide
    next => decide
    next => decide
    next => cases hb
  · obtain ⟨b, hb, -⟩ := srcBuf?_of_le h
    exact ⟨b, hb⟩

theorem exists_dstBuf?_iff {dst : Nat} : (∃ d, dstBuf? dst = some d) ↔ 1 ≤ dst ∧ dst ≤ 2 := by
  refine ⟨fun ⟨d, hd⟩ => ?_, fun ⟨h1, h2⟩ => ?_⟩
  · unfold dstBuf? at hd
    split at hd
    next => decide
    next => decide
    next => cases hd
  · rcases (show dst = 1 ∨ dst = 2 by omega) with rfl | rfl
    · exact ⟨.bufA, rfl⟩
    · exact ⟨.bufB, rfl⟩

/-- A destination selector names the same buffer as a source. -/
theorem srcBuf?_of_dstBuf? {n : Nat} {d : Buf} (h : dstBuf? n = some d) : srcBuf? n = some d := by
  unfold dstBuf? at h
  split at h
  next => exact h
  next => exact h
  next => cases h

theorem base_of_dstBuf? {dst base : Nat} {d : Buf} (h : DstBase dst base) (hd : dstBuf? dst = some d) :
    d.base = base := by
  rcases h with ⟨rfl, rfl⟩ | ⟨rfl, rfl⟩ <;> cases hd <;> rfl

theorem hdrLenOk_hdr {s : State} (h : s.hdrLen ≠ 80) : hdrLenOk .hdr s = false := decide_eq_false h

/-! ### What the commands leave (R113 to R116) -/

theorem exec_hstage {k src dst : Nat} {s : State} {u : Fin 5} {b d : Buf} {bs : List Byte} (hr : Ready s)
    (hu : unit? k = some u) (hb : srcBuf? src = some b) (hd : dstBuf? dst = some d) (hne : b ≠ d)
    (hh : hdrLenOk b s = true) (hbs : readBuf s.mem b = .ok bs) :
    exec (.hstage k src dst) s = .next (finished
      { s with mem := writeBuf s.mem d (hashOf Config.params u bs), acc := s.acc.set u none }) := by
  refine exec_completes hr rfl ((planHstage_eq hu hb hd).trans (checked_eq_ok.2 ⟨?_, ?_⟩))
  · simp [hne, hh]
  · rw [hashStage_eq, hbs, ok_bind, ok_bind]

/-- A digest written to a destination: its 32 bytes are there and the rest of the storage is as it was. -/
theorem writeBuf_digest {dst base : Nat} {d : Buf} (h : DstBase dst base) (hd : dstBuf? dst = some d) (m : Memory)
    (u : Fin 5) (bs : List Byte) :
    HoldsBytes (writeBuf m d (hashOf Config.params u bs)) base (hashed u bs) ∧
      SameOutside m (writeBuf m d (hashOf Config.params u bs)) base 32 := by
  rw [← base_of_dstBuf? h hd, ← length_hashOf Config.params u bs]
  exact ⟨holdsBytes_memWrite _ _ _, sameOutside_memWrite _ _ _⟩

/-- Settles O43: `HP.RESET` looks at nothing but its operand. -/
theorem hpResetEmptiesTheUnit : Obligations.HpResetEmptiesTheUnit := fun u _ hr => exec_hpReset hr (unit?_succ u)

/-- Settles O44: the selector names the buffer whose bytes are held, and reading them gives the string appended. -/
theorem hpUpdateAppendsTheBuffer : Obligations.HpUpdateAppendsTheBuffer := by
  intro u src base size fed bs s hr hsrc hlen hfed hl hbs
  obtain ⟨b, hb, hbase, hsize, hhdr⟩ := srcBuf?_of_range hsrc
  exact exec_hpUpdate hr (unit?_succ u) hb (hdrLenOk_of hhdr hlen) hfed (readBuf_of_holdsBytes hbase hsize hl hbs)

/-- Settles O45: the digest has 32 bytes, and writing them is all that `HP.DIGEST` does to the storage. -/
theorem hpDigestWritesTheDigest : Obligations.HpDigestWritesTheDigest := by
  intro u dst base fed s hr hdst hfed
  obtain ⟨d, hd⟩ := dstBuf?_of_base hdst
  exact ⟨_, exec_hpDigest hr (unit?_succ u) hd hfed, writeBuf_digest hdst hd s.mem u fed⟩

/-- Settles O46: the stage reads the bytes held in the source, whatever `ACC` held, and writes their digest. -/
theorem hstageRunsOneStage : Obligations.HstageRunsOneStage := by
  intro u src base size dst dbase bs s hr hsrc hdst hne hlen hl hbs
  obtain ⟨b, hb, hbase, hsize, hhdr⟩ := srcBuf?_of_range hsrc
  obtain ⟨d, hd⟩ := dstBuf?_of_base hdst
  exact ⟨_, exec_hstage hr (unit?_succ u) hb hd (srcBuf?_ne_dstBuf? hb hd hne) (hdrLenOk_of hhdr hlen)
    (readBuf_of_holdsBytes hbase hsize hl hbs), writeBuf_digest hdst hd s.mem u bs⟩

/-! ### The errors of the plans, in their order (R113 to R116, R129) -/

section
variable {p : Params} {k src dst : Nat} {s : State} {u : Fin 5} {b d : Buf}

theorem planHpReset_operand (h : ¬ (1 ≤ k ∧ k ≤ 5)) : planHpReset k s = .error .operand := by
  cases hu : unit? k with
  | none => rw [planHpReset, hu]
  | some u => exact absurd (exists_unit?_iff.1 ⟨u, hu⟩) h

theorem planHpUpdate_operand (h : ¬ ((1 ≤ k ∧ k ≤ 5) ∧ src ≤ 2)) : planHpUpdate k src s = .error .operand := by
  cases hu : unit? k with
  | none => simp only [planHpUpdate, hu]
  | some u =>
    cases hb : srcBuf? src with
    | none => simp only [planHpUpdate, hu, hb]
    | some b => exact absurd ⟨exists_unit?_iff.1 ⟨u, hu⟩, exists_srcBuf?_iff.1 ⟨b, hb⟩⟩ h

theorem planHpUpdate_hdrLen (hu : unit? k = some u) (hb : srcBuf? src = some b) (hh : hdrLenOk b s = false) :
    planHpUpdate k src s = .error .hdrLen := by
  simp only [planHpUpdate, hu, hb, firstFailing_single_error hh]

theorem planHpUpdate_hpSeq (hu : unit? k = some u) (hb : srcBuf? src = some b) (hh : hdrLenOk b s = true)
    (ha : s.acc[u] = none) : planHpUpdate k src s = .error .hpSeq := by
  simp only [planHpUpdate, hu, hb, firstFailing_single.2 hh, ha]

theorem planHpDigest_operand (h : ¬ ((1 ≤ k ∧ k ≤ 5) ∧ 1 ≤ dst ∧ dst ≤ 2)) :
    planHpDigest p k dst s = .error .operand := by
  cases hu : unit? k with
  | none => simp only [planHpDigest, hu]
  | some u =>
    cases hd : dstBuf? dst with
    | none => simp only [planHpDigest, hu, hd]
    | some d => exact absurd ⟨exists_unit?_iff.1 ⟨u, hu⟩, exists_dstBuf?_iff.1 ⟨d, hd⟩⟩ h

theorem planHpDigest_hpSeq (hu : unit? k = some u) (hd : dstBuf? dst = some d) (ha : s.acc[u] = none) :
    planHpDigest p k dst s = .error .hpSeq := by
  simp only [planHpDigest, hu, hd, ha]

theorem planHstage_sameBuffer (hu : unit? k = some u) (hd : dstBuf? dst = some d) :
    planHstage p k dst dst s = .error .operand := by
  rw [planHstage_eq hu (srcBuf?_of_dstBuf? hd) hd, checked, firstFailing_cons, decide_eq_false (not_not_intro rfl)]
  rfl

/-- `HSTAGE` finds no unit, no source or no destination, or the same buffer as both. -/
theorem planHstage_operand (h : ¬ ((1 ≤ k ∧ k ≤ 5) ∧ src ≤ 2 ∧ (1 ≤ dst ∧ dst ≤ 2) ∧ src ≠ dst)) :
    planHstage p k src dst s = .error .operand := by
  cases hu : unit? k with
  | none => simp only [planHstage, hu]
  | some u =>
    cases hb : srcBuf? src with
    | none => simp only [planHstage, hu, hb]
    | some b =>
      cases hd : dstBuf? dst with
      | none => simp only [planHstage, hu, hb, hd]
      | some d =>
        have hsame : src = dst := by_contra fun hne => h
          ⟨exists_unit?_iff.1 ⟨u, hu⟩, exists_srcBuf?_iff.1 ⟨b, hb⟩, exists_dstBuf?_iff.1 ⟨d, hd⟩, hne⟩
        rw [hsame, planHstage_sameBuffer hu hd]

theorem planHstage_hdrLen (hu : unit? k = some u) (hb : srcBuf? src = some b) (hd : dstBuf? dst = some d) (hne : b ≠ d)
    (hh : hdrLenOk b s = false) : planHstage p k src dst s = .error .hdrLen := by
  rw [planHstage_eq hu hb hd, checked, firstFailing_cons, decide_eq_true hne, if_pos rfl, firstFailing_single_error hh]

end

/-- Settles O17: each clause is the first check of its plan that fails. -/
theorem chainErrorsInOrder : Obligations.ChainErrorsInOrder := by
  intro s k src dst hr
  refine ⟨fun h => ?_, fun h => ?_, fun hk hsrc hlen => ?_, fun u hk hsrc hlen hacc => ?_, fun h => ?_,
    fun u hk hdst hacc => ?_, fun h => ?_, fun hk hsrc hdst hlen => ?_, fun hlen => ?_⟩
  · exact exec_refuses hr rfl (planHpReset_operand h)
  · exact exec_refuses hr rfl (planHpUpdate_operand (by rwa [and_assoc]))
  · obtain ⟨u, hu⟩ := exists_unit?_iff.2 hk
    subst hsrc
    exact exec_refuses hr rfl (planHpUpdate_hdrLen hu rfl (hdrLenOk_hdr hlen))
  · subst hk
    obtain ⟨b, hb, hhdr⟩ := srcBuf?_of_le hsrc
    exact exec_refuses hr rfl (planHpUpdate_hpSeq (unit?_succ u) hb (hdrLenOk_of hhdr hlen) hacc)
  · exact exec_refuses hr rfl (planHpDigest_operand (by rwa [and_assoc]))
  · subst hk
    obtain ⟨d, hd⟩ := exists_dstBuf?_iff.2 hdst
    exact exec_refuses hr rfl (planHpDigest_hpSeq (unit?_succ u) hd hacc)
  · exact exec_refuses hr rfl (planHstage_operand (by simpa only [and_assoc] using h))
  · obtain ⟨u, hu⟩ := exists_unit?_iff.2 hk
    obtain ⟨d, hd⟩ := exists_dstBuf?_iff.2 hdst
    subst hsrc
    exact exec_refuses hr rfl (planHstage_hdrLen hu rfl hd (dstBuf?_ne_hdr hd).symm (hdrLenOk_hdr hlen))
  · exact exec_checked_refuses hr rfl (planPowhash_eq _ _) (firstFailing_single_error (decide_eq_false hlen) _)

end Sys2Proof.Proofs
end

section
/-! `POWHASH`: the storage and the registers each stage leaves, and from them what the command leaves (R118 to R120). -/

namespace Sys2Proof.Proofs

open Sys2Proof.Machine Sys2Proof.Claims

/-! ### Byte strings in storage (R39) -/

theorem holdsBytes_memWrite_outside {m : Memory} {a base : Nat} {bs cs : List Byte} (h : HoldsBytes m a bs)
    (hd : a + bs.length ≤ base ∨ base + cs.length ≤ a) : HoldsBytes (memWrite m base cs) a bs := fun k hk =>
  (memGet?_memWrite_outside (by omega)).trans (h k hk)

theorem sameOutside_trans {m m' m'' : Memory} {a n : Nat} (h : SameOutside m m' a n) (h' : SameOutside m' m'' a n) :
    SameOutside m m'' a n := fun b hb => (h' b hb).trans (h b hb)

theorem sameOutside_writeBuf {b : Buf} (hb : b ≠ .hdr) {bs : List Byte} (hl : bs.length = 32) (m : Memory) :
    SameOutside m (writeBuf m b bs) bufABase 64 := fun a ha => by
  refine memGet?_memWrite_outside ?_
  rw [hl]
  have hA : bufABase = 0x200 := rfl
  have hB : bufBBase = 0x220 := rfl
  cases b with
  | hdr => exact absurd rfl hb
  | bufA => change a < bufABase ∨ bufABase + 32 ≤ a; omega
  | bufB => change a < bufBBase ∨ bufBBase + 32 ≤ a; omega

/-! ### Stages 1 to 3 and 5 to 7 (R116, R118) -/

section
variable {p : Params} {m : Memory} {b : Buf} {bs : List Byte}

theorem readBuf_writeBuf (hl : bs.length = b.size) : readBuf (writeBuf m b bs) b = .ok bs := by
  rw [readBuf, writeBuf, ← hl, readBytes_memWrite]

theorem hashStages_cons_of_read (h : readBuf m b = .ok bs) (u : Fin 5) (dst : Buf) (rest : List (Fin 5 × Buf × Buf)) :
    hashStages p ((u, b, dst) :: rest) m = hashStages p rest (writeBuf m dst (hashOf p u bs)) := by
  rw [hashStages_cons, hashStage_eq, h, ok_bind, ok_bind]

/-- Three stages through BUFA, BUFB and BUFA: BUFB keeps the second digest, BUFA ends as the third. -/
theorem hashStages_throughBuffers (h : readBuf m b = .ok bs) (u v w : Fin 5) :
    ∃ m', hashStages p [(u, b, .bufA), (v, .bufA, .bufB), (w, .bufB, .bufA)] m = .ok m' ∧
      HoldsBytes m' bufABase (hashOf p w (hashOf p v (hashOf p u bs))) ∧
      HoldsBytes m' bufBBase (hashOf p v (hashOf p u bs)) ∧ SameOutside m m' bufABase 64 := by
  have hu := length_hashOf p u bs
  have hv := length_hashOf p v (hashOf p u bs)
  have hw := length_hashOf p w (hashOf p v (hashOf p u bs))
  have hrun : hashStages p [(u, b, .bufA), (v, .bufA, .bufB), (w, .bufB, .bufA)] m =
      .ok (writeBuf (writeBuf (writeBuf m .bufA (hashOf p u bs)) .bufB (hashOf p v (hashOf p u bs))) .bufA
        (hashOf p w (hashOf p v (hashOf p u bs)))) := by
    rw [hashStages_cons_of_read h, hashStages_cons_of_read (readBuf_writeBuf hu),
      hashStages_cons_of_read (readBuf_writeBuf hv), hashStages]
  refine ⟨_, hrun, holdsBytes_memWrite _ _ _, holdsBytes_memWrite_outside (holdsBytes_memWrite _ _ _) (.inr ?_), ?_⟩
  · rw [hw]
    decide
  · exact sameOutside_trans (sameOutside_trans (sameOutside_writeBuf (by decide) hu m)
      (sameOutside_writeBuf (by decide) hv _)) (sameOutside_writeBuf (by decide) hw _)

end

/-! ### The loop variables after a derivation (R96, R98) -/

/-- A walk ends at the last row it visits. -/
theorem walk_prev {R C : Nat} {l : List Nat} {x y : Walk} (h : walk R C l x = .ok y) : y.prev = l.getLastD x.prev := by
  induction l generalizing x with
  | nil => cases h; rfl
  | cons r rs ih =>
    obtain ⟨w, -, h⟩ := bind_eq_ok.1 h
    rw [ih h, List.getLastD_cons]

theorem wanderProc_prev {T R C prev : Nat} {w : Work} {x : Work × Tour} (hpow : ∃ k, 0 < k ∧ R = 2 ^ k) (hT : 0 < T)
    (h : wanderProc T R C prev w = .ok x) : x.2.prev = (walkRows R T).getLastD prev := by
  obtain ⟨k, hk⟩ := exists_eq_two_pow_succ hpow
  rw [wanderProc_eq hk hT] at h
  obtain ⟨y, hy, hx⟩ := bind_eq_ok.1 h
  cases hx
  exact walk_prev hy

theorem deriveProc_tour_prev {p : Params} {outLen : Word} {pwd salt : List Byte} {t R C : Word} {m : Memory}
    {d : Derived} (hpow : ∃ k, 0 < k ∧ R.toNat = 2 ^ k) (ht : 0 < t.toNat)
    (h : deriveProc p outLen pwd salt t R C m = .ok d) :
    d.tour.prev = (walkRows R.toNat t.toNat).getLastD d.sched.prev := by
  simp only [deriveProc_eq, bind_eq_ok] at h
  obtain ⟨w1, -, x2, -, x3, h3, x4, -, hd⟩ := h
  cases hd
  exact wanderProc_prev hpow ht h3

/-! ### Stage 4 (R118) -/

/-- Stage 4 answers where BUFA is held: it derives from the bytes of BUFA and writes the digest to BUFB. -/
theorem deriveStage_of_read {p : Params} {m : Memory} {a : List Byte} (h : readBuf m .bufA = .ok a) :
    ∃ d, deriveProc p 32 a a 1 4 4 m = .ok d ∧
      deriveStage p m = .ok { d with work := { d.work with mem := writeBuf d.work.mem .bufB d.out } } ∧
      DerivationEnd 2 1 4 4 d ∧ d.tour.prev = 3 ∧ Writes (DeriveRange 2 16) m d.work.mem := by
  have hpow : ∃ k, 0 < k ∧ (4 : Word).toNat = 2 ^ k := ⟨2, by decide, rfl⟩
  have hblocks : padBlocks a.length a.length = 2 := by rw [readBytes_length h]; rfl
  obtain ⟨d, hd, hend⟩ := deriveProc_completes (p := p) (outLen := 32) (pwd := a) (salt := a) (t := 1) (C := 4) hpow
    (by decide) (by decide) m
  have hprev := deriveProc_tour_prev hpow (by decide) hd
  have hwrites := deriveProc_writes (by decide) hd
  rw [hblocks] at hend hwrites
  exact ⟨d, hd, by rw [deriveStage_eq, h, ok_bind, hd, ok_bind], hend, hprev, hwrites⟩

/-- What `POWHASH` leaves in the registers after a derivation with time cost 1, 4 rows and 4 columns (R18, R119). -/
theorem storeDerived_of_fourRows {d : Derived} (hend : DerivationEnd 2 1 4 4 d) (hprev : d.tour.prev = 3) (s : State)
    (w : Work) (m : Memory) (acc : Vector (Option (List Byte)) 5) :
    { storeDerived { d with work := w } s with mem := m, acc := acc } =
      { s with S := w.S, mem := m, nBlk := 2, row := 0, prev := 3, rowa := BitVec.ofNat 64 d.tour.rowa, stride := 1,
               window := 4, gap := BitVec.ofInt 64 (-1), tau := 1, acc := acc } := by
  obtain ⟨y, hy, -⟩ := hend.tour
  have hyprev : y.prev = 3 := by rwa [hy] at hprev
  rw [storeDerived, hend.nBlk, hend.sched, hy, finalTour, hyprev]
  rfl

/-! ### The command (R119) -/

/-- Settles O48: stages 1 to 3 leave `A` in BUFA, which stage 4 reads; stages 5 to 7 start from the digest it leaves in
BUFB and write nothing but the two buffers. -/
theorem powhashRunsTheChain : Obligations.PowhashRunsTheChain := by
  intro s hdr hr hlen hl hhdr
  obtain ⟨mA, hbefore, hA, hB, hsameA⟩ := hashStages_throughBuffers (p := Config.params)
    (readBuf_of_holdsBytes (b := .hdr) rfl rfl hl hhdr) 0 1 2
  obtain ⟨d, hd, hstage, hend, hprev, hwrites⟩ := deriveStage_of_read (p := Config.params)
    (readBuf_of_holdsBytes (b := .bufA) rfl rfl (length_hashOf _ _ _) hA)
  have hout : d.out.length = 32 := deriveProc_out_length hd
  obtain ⟨m', hafter, hA', hB', hsame'⟩ := hashStages_throughBuffers (p := Config.params)
    (readBuf_writeBuf (m := d.work.mem) (b := .bufB) hout) 3 2 4
  have hkept : SameOutside d.work.mem m' 0x200 64 := 
    sameOutside_trans (sameOutside_writeBuf (by decide) hout _) hsame'
  have hchain : chain Config.params s.mem =
      .ok ({ d with work := { d.work with mem := writeBuf d.work.mem .bufB d.out } }, m') := by
    rw [chain, stagesBefore, hbefore, ok_bind, hstage, ok_bind, stagesAfter, hafter, ok_bind]
  refine ⟨m', mA, d, ?_, hA, hB, hsameA, hd, hout, hA', hB', fun a ha => hkept a (by omega), fun k hk => ?_,
    fun k hk => ?_, fun a hbuf hpad hM => ?_⟩
  · rw [exec_powhash hr hlen hchain]
    exact congrArg Host.Outcome.next (congrArg finished (storeDerived_of_fourRows hend hprev s _ m' _))
  · rw [hkept _ (by omega)]
    exact hend.padded k hk
  · rw [hkept _ (by omega)]
    exact hend.rows k hk
  · calc memGet? m' a = memGet? d.work.mem a := hkept a hbuf
      _ = memGet? mA a := hwrites.memGet?_eq fun base len hb => deriveRange_outside hb hpad hM
      _ = memGet? s.mem a := hsameA a hbuf

end Sys2Proof.Proofs
end

section
/-! The system commands `NOP`, `CLR` and `SRST`, and the reset input (R122 to R124, R141, R142). -/

namespace Sys2Proof.Proofs

open Sys2Proof.Machine Sys2Proof.Claims

/-! ### The two commands that run at once, while no command runs (R61) -/

theorem exec_clr_idle {s : State} (hr : s.running = none) : exec .clr s = .next (clearStatus s) := by
  simp [exec_clr, busy_eq_false.2 hr]

theorem exec_srst_idle {s : State} (hr : s.running = none) : exec .srst s = .next (resetState s) := by
  simp [exec_srst, busy_eq_false.2 hr]

/-- With nothing running, `CLR` leaves no bit of `STATUS` set (R21, R123). -/
theorem statusWord_clearStatus {s : State} (hr : s.running = none) : statusWord (clearStatus s) = 0 := by
  rw [statusWord, busy_clearStatus, busy_eq_false.2 hr]
  rfl

/-! ### The reset input (R141) -/

/-- The reset input does the same whether a command runs, which takes an early action, or not. -/
theorem step_reset_input {s : State} {e : Bool} {rest : List PortEvent} (hp : s.port = ⟨e, .reset⟩ :: rest)
    (hserved : s.running = none ∨ e = true) : step s = .next (resetState { s with port := rest }) := by
  rcases Option.eq_none_or_eq_some s.running with hr | ⟨i, hr⟩
  · rw [step_idle hr hp, actIdle]
  · obtain rfl : e = true := hserved.resolve_left (by rw [hr]; nofun)
    rw [step_busy hr hp, actBusy]

/-! ### The three statements -/

/-- Settles O18: `NOP` has no checks and its effect is the state it found, so that completion is all it adds. -/
theorem nopCompletes : Obligations.NopCompletes := fun _ hr => exec_completes hr rfl rfl

/-- Settles O19: `CLR` looks at nothing but whether a command runs, and of `STATUS` only `BUSY` outlives it. -/
theorem clrClearsTheStatus : Obligations.ClrClearsTheStatus := fun _ hr => ⟨exec_clr_idle hr, statusWord_clearStatus hr⟩

/-- Settles O20: `SRST` and the reset input are both `resetState`. -/
theorem srstAndResetInputReset : Obligations.SrstAndResetInputReset := fun _ =>
  ⟨exec_srst_idle, fun _ _ hp hserved => step_reset_input hp hserved⟩

end Sys2Proof.Proofs
end

section
/-! Errors are precise (R126, R131): the checks of a command come before anything it writes, and its effect raises no
error. -/

namespace Sys2Proof.Proofs

open Sys2Proof.Machine Sys2Proof.Claims

/-- No command can fail once its checks have passed (R131). -/
theorem completed_err {i : Instr} {s t : State} (hr : Ready s) (hi : runsAtOnce i = false)
    (h : planOf Config.params i s = .ok (.ok t)) : (complete t).err = none := by
  obtain ⟨-, -, -, herr, -⟩ := written_control i s t
  calc (complete t).err = t.err := complete_err t
    _ = (written i s t).err := completed_field hi h State.err
    _ = s.err := herr
    _ = none := hr.2

/-- An error comes from a check that fails, and nothing but the error is recorded. The converse is `exec_refuses`. -/
theorem refused_of_err {i : Instr} {s t : State} (hr : Ready s) (h : exec i s = .next t) (ht : t.err ≠ none) :
    ∃ e, planOf Config.params i s = .error e ∧ t = refusedWith e s := by
  cases exec_ending h with
  | dropped hd =>
    obtain ⟨hrun, herr⟩ := hr
    simp [busy, hrun, herr] at hd
  | refused e _ _ hp => exact ⟨e, hp, rfl⟩
  | completed _ hi _ hp => exact absurd (completed_err hr hi hp) ht
  | cleared => exact absurd (clearStatus_err s) ht
  | reset => exact absurd (resetState_err s) ht

/-- Settles O10: the command was refused by a check, and `raise` writes `ERR` and `DONE` only. -/
theorem refusedCommandChangesOnlyStatus : Obligations.RefusedCommandChangesOnlyStatus := by
  intro i s t hr h ht
  obtain ⟨e, -, rfl⟩ := refused_of_err hr h ht
  rfl

end Sys2Proof.Proofs
end
